-- ==== Sys2Proof/Word.lean ====
section
/-! DEFINITION. The word types of the Z8000 (10_state.md R21 to R24): the sizes the spec treats as bits.

A byte has 8 bits, a word 16, a long word 32, a quadruple 64 (R21, R22, R23). A register field is 4 bits
(30_encoding.md R93). `Width` is the spec's operand-size parameter `W` in {8, 16, 32} (00_scope.md R12). -/

namespace Sys2Proof

/-- A byte: 8 bits (R21). -/
abbrev Byte := BitVec 8

/-- A word: 16 bits (R21). -/
abbrev Word := BitVec 16

/-- A long word: 32 bits (R22). -/
abbrev Long := BitVec 32

/-- A quadruple: 64 bits (R23). -/
abbrev Quad := BitVec 64

/-- A 4-bit register field (R93). -/
abbrev RegNo := BitVec 4

/-- The operand-size parameter `W` of 00_scope.md R12. -/
inductive Width where
  | byte
  | word
  | long
  deriving DecidableEq, Repr

/-- `W` itself: the number of bits of an operand of this width (R12). -/
abbrev Width.bits : Width → Nat
  | .byte => 8
  | .word => 16
  | .long => 32

/-- `SZ = W/8`, the operand's size in bytes (R12). -/
abbrev Width.bytes : Width → Nat
  | .byte => 1
  | .word => 2
  | .long => 4

end Sys2Proof
end

