-- ==== Sys2Proof/Syntax.lean ====
section
/-! DEFINITION. The instruction set as data: every row of spec/opcode_table.json.

One constructor per instruction of the table. Where the rows of one mnemonic differ only in an addressing mode
(30_encoding.md R100), the mode is the constructor's operand (`Src`, `Dst`, `Mem`, `Based`, `Port`); where they differ
in shape (load and store, static and dynamic, the two directions of LDCTL) there is one constructor per shape.
Register fields are the encoding's own 4-bit fields (R93); which values a field may have is `WellFormed.lean`'s. -/

namespace Sys2Proof

/-- The address inside an instruction: one word in non-segmented mode (R97); in segmented mode the short-offset
form or the long-offset form (R98). -/
inductive AddrField where
  | near (a : Word)
  | short (seg : BitVec 7) (off : Byte)
  | long (seg : BitVec 7) (off : Word)
  deriving DecidableEq, Repr

/-- A memory operand: IR, DA or X (R100). -/
inductive Mem where
  | ir (p : RegNo)
  | da (a : AddrField)
  | x (a : AddrField) (i : RegNo)
  deriving DecidableEq, Repr

/-- A based memory operand: BA (base and displacement) or BX (base and index) (R100). -/
inductive Based where
  | ba (p : RegNo) (disp : Word)
  | bx (p : RegNo) (i : RegNo)
  deriving DecidableEq, Repr

/-- An operand that is a register or memory: R, IR, DA, X (R102). -/
inductive Dst where
  | reg (k : RegNo)
  | mem (m : Mem)
  deriving DecidableEq, Repr

/-- A source operand of width `W`: R, IM, IR, DA, X (R102). -/
inductive Src (W : Width) where
  | reg (k : RegNo)
  | imm (v : BitVec W.bits)
  | mem (m : Mem)
  deriving DecidableEq, Repr

/-- A port operand: a word register holding the port address, or the port word (48_io.md R272, R273). -/
inductive Port where
  | ind (p : RegNo)
  | direct (port : Word)
  deriving DecidableEq, Repr

/-- The sixteen condition codes, in the order of their 4-bit codes (R110). -/
inductive Cond where
  | f | lt | le | ule | ov | mi | z | c | t | ge | gt | ugt | nov | pl | nz | nc
  deriving DecidableEq, Repr

/-- The control registers LDCTL names (10_state.md R33); codes 0 and 1 name none. -/
inductive CtlReg where
  | fcw | refresh | psapSeg | psapOff | nspSeg | nspOff
  deriving DecidableEq, Repr

/-- The six upper bytes of the extended-instruction space (R133). -/
inductive EpaOp where
  | x0E | x0F | x4E | x4F | x8E | x8F
  deriving DecidableEq, Repr

/-- The instructions of spec/opcode_table.json. -/
inductive Instr where
  -- Load and exchange (40_load_exchange.md)
  /-- CLRB. R141: R, IR, DA, X. -/
  | clrb (dst : Dst)
  /-- CLR. R141: R, IR, DA, X. -/
  | clr (dst : Dst)
  /-- EXB. R142: R, IR, DA, X. -/
  | exb (d : RegNo) (src : Dst)
  /-- EX. R142: R, IR, DA, X. -/
  | ex (d : RegNo) (src : Dst)
  /-- LDB. R143, load: R, IM, IR, DA, X. -/
  | ldb (d : RegNo) (src : Src .byte)
  /-- LDB. R143, load: BA, BX. -/
  | ldbBased (d : RegNo) (src : Based)
  /-- LDB. R143, store: IR, DA, X. -/
  | ldbStore (dst : Mem) (s : RegNo)
  /-- LDB. R143, store: BA, BX. -/
  | ldbStoreBased (dst : Based) (s : RegNo)
  /-- LDB. R143, store immediate: IR, DA, X. -/
  | ldbStoreImm (dst : Mem) (v : BitVec 8)
  /-- LDB. R143, the compact one-word form. -/
  | ldbShort (d : RegNo) (v : Byte)
  /-- LD. R143, load: R, IM, IR, DA, X. -/
  | ld (d : RegNo) (src : Src .word)
  /-- LD. R143, load: BA, BX. -/
  | ldBased (d : RegNo) (src : Based)
  /-- LD. R143, store: IR, DA, X. -/
  | ldStore (dst : Mem) (s : RegNo)
  /-- LD. R143, store: BA, BX. -/
  | ldStoreBased (dst : Based) (s : RegNo)
  /-- LD. R143, store immediate: IR, DA, X. -/
  | ldStoreImm (dst : Mem) (v : BitVec 16)
  /-- LDL. R143, load: R, IM, IR, DA, X. -/
  | ldl (d : RegNo) (src : Src .long)
  /-- LDL. R143, load: BA, BX. -/
  | ldlBased (d : RegNo) (src : Based)
  /-- LDL. R143, store: IR, DA, X. -/
  | ldlStore (dst : Mem) (s : RegNo)
  /-- LDL. R143, store: BA, BX. -/
  | ldlStoreBased (dst : Based) (s : RegNo)
  /-- LDA. R144: DA. -/
  | lda (d : RegNo) (addr : AddrField)
  /-- LDA. R144: X. -/
  | ldaIndexed (d : RegNo) (addr : AddrField) (x : RegNo)
  /-- LDA. R144: BA, BX. -/
  | ldaBased (d : RegNo) (src : Based)
  /-- LDAR. R145: RA. -/
  | ldar (d : RegNo) (disp : Word)
  /-- LDK. R146. -/
  | ldk (d : RegNo) (n : BitVec 4)
  /-- LDM. R147, memory to registers: IR, DA, X; `n` is the count minus one. -/
  | ldmLoad (d : RegNo) (src : Mem) (n : BitVec 4)
  /-- LDM. R147, registers to memory: IR, DA, X; `n` is the count minus one. -/
  | ldmStore (dst : Mem) (s : RegNo) (n : BitVec 4)
  /-- LDRB. R148, load: RA. -/
  | ldrb (d : RegNo) (disp : Word)
  /-- LDRB. R148, store: RA. -/
  | ldrbStore (disp : Word) (s : RegNo)
  /-- LDR. R148, load: RA. -/
  | ldr (d : RegNo) (disp : Word)
  /-- LDR. R148, store: RA. -/
  | ldrStore (disp : Word) (s : RegNo)
  /-- LDRL. R148, load: RA. -/
  | ldrl (d : RegNo) (disp : Word)
  /-- LDRL. R148, store: RA. -/
  | ldrlStore (disp : Word) (s : RegNo)
  /-- POP. R149: R, IR, DA, X. -/
  | pop (dst : Dst) (s : RegNo)
  /-- POPL. R149: R, IR, DA, X. -/
  | popl (dst : Dst) (s : RegNo)
  /-- PUSH. R150: R, IM, IR, DA, X. -/
  | push (d : RegNo) (src : Src .word)
  /-- PUSHL. R150: R, IR, DA, X. -/
  | pushl (d : RegNo) (src : Dst)
  -- Arithmetic (41_arithmetic.md)
  /-- ADCB. R161: R. -/
  | adcb (d s : RegNo)
  /-- ADC. R161: R. -/
  | adc (d s : RegNo)
  /-- SBCB. R171: R. -/
  | sbcb (d s : RegNo)
  /-- SBC. R171: R. -/
  | sbc (d s : RegNo)
  /-- ADDB. R162: R, IM, IR, DA, X. -/
  | addb (d : RegNo) (src : Src .byte)
  /-- ADD. R162: R, IM, IR, DA, X. -/
  | add (d : RegNo) (src : Src .word)
  /-- ADDL. R162: R, IM, IR, DA, X. -/
  | addl (d : RegNo) (src : Src .long)
  /-- SUBB. R172: R, IM, IR, DA, X. -/
  | subb (d : RegNo) (src : Src .byte)
  /-- SUB. R172: R, IM, IR, DA, X. -/
  | sub (d : RegNo) (src : Src .word)
  /-- SUBL. R172: R, IM, IR, DA, X. -/
  | subl (d : RegNo) (src : Src .long)
  /-- CPB. R163: R, IM, IR, DA, X. -/
  | cpb (d : RegNo) (src : Src .byte)
  /-- CP. R163: R, IM, IR, DA, X. -/
  | cp (d : RegNo) (src : Src .word)
  /-- CPL. R163: R, IM, IR, DA, X. -/
  | cpl (d : RegNo) (src : Src .long)
  /-- CPB. R163, memory with immediate: IR, DA, X. -/
  | cpbImm (dst : Mem) (v : BitVec 8)
  /-- CP. R163, memory with immediate: IR, DA, X. -/
  | cpImm (dst : Mem) (v : BitVec 16)
  /-- DAB. R164. -/
  | dab (d : RegNo)
  /-- INCB. R168: R, IR, DA, X; `n` is the operand minus one. -/
  | incb (dst : Dst) (n : BitVec 4)
  /-- INC. R168: R, IR, DA, X; `n` is the operand minus one. -/
  | inc (dst : Dst) (n : BitVec 4)
  /-- DECB. R165: R, IR, DA, X; `n` is the operand minus one. -/
  | decb (dst : Dst) (n : BitVec 4)
  /-- DEC. R165: R, IR, DA, X; `n` is the operand minus one. -/
  | dec (dst : Dst) (n : BitVec 4)
  /-- MULT. R169: R, IM, IR, DA, X. -/
  | mult (d : RegNo) (src : Src .word)
  /-- MULTL. R169: R, IM, IR, DA, X. -/
  | multl (d : RegNo) (src : Src .long)
  /-- DIV. R166: R, IM, IR, DA, X. -/
  | div (d : RegNo) (src : Src .word)
  /-- DIVL. R166: R, IM, IR, DA, X. -/
  | divl (d : RegNo) (src : Src .long)
  /-- EXTSB. R167: byte to word. -/
  | extsb (d : RegNo)
  /-- EXTS. R167: word to long. -/
  | exts (d : RegNo)
  /-- EXTSL. R167: long to quadruple. -/
  | extsl (d : RegNo)
  /-- NEGB. R170: R, IR, DA, X. -/
  | negb (dst : Dst)
  /-- NEG. R170: R, IR, DA, X. -/
  | neg (dst : Dst)
  -- Logical (42_logical.md)
  /-- ANDB. R181: R, IM, IR, DA, X. -/
  | andb (d : RegNo) (src : Src .byte)
  /-- AND. R181: R, IM, IR, DA, X. -/
  | and (d : RegNo) (src : Src .word)
  /-- ORB. R183: R, IM, IR, DA, X. -/
  | orb (d : RegNo) (src : Src .byte)
  /-- OR. R183: R, IM, IR, DA, X. -/
  | or (d : RegNo) (src : Src .word)
  /-- XORB. R185: R, IM, IR, DA, X. -/
  | xorb (d : RegNo) (src : Src .byte)
  /-- XOR. R185: R, IM, IR, DA, X. -/
  | xor (d : RegNo) (src : Src .word)
  /-- COMB. R182: R, IR, DA, X. -/
  | comb (dst : Dst)
  /-- COM. R182: R, IR, DA, X. -/
  | com (dst : Dst)
  /-- TESTB. R184: R, IR, DA, X. -/
  | testb (dst : Dst)
  /-- TEST. R184: R, IR, DA, X. -/
  | test (dst : Dst)
  /-- TESTL. R184: R, IR, DA, X. -/
  | testl (dst : Dst)
  -- Program control (43_program_control.md)
  /-- CALL. R190: IR, DA, X. -/
  | call (dst : Mem)
  /-- CALR. R191. -/
  | calr (p : BitVec 12)
  /-- DBJNZ. R192, byte counter. -/
  | dbjnz (r : RegNo) (p : BitVec 7)
  /-- DJNZ. R192, word counter. -/
  | djnz (r : RegNo) (p : BitVec 7)
  /-- IRET. R193, privileged. -/
  | iret
  /-- JP. R194: IR, DA, X. -/
  | jp (cc : Cond) (dst : Mem)
  /-- JR. R195. -/
  | jr (cc : Cond) (p : BitVec 8)
  /-- RET. R196. -/
  | ret (cc : Cond)
  /-- SC. R197. -/
  | sc (v : Byte)
  -- Bit manipulation (44_bit.md)
  /-- BITB. R205, static: R, IR, DA, X. -/
  | bitb (dst : Dst) (n : BitVec 3)
  /-- BITB. R205, dynamic. -/
  | bitbDyn (d s : RegNo)
  /-- BIT. R205, static: R, IR, DA, X. -/
  | bit (dst : Dst) (n : BitVec 4)
  /-- BIT. R205, dynamic. -/
  | bitDyn (d s : RegNo)
  /-- RESB. R206, static: R, IR, DA, X. -/
  | resb (dst : Dst) (n : BitVec 3)
  /-- RESB. R206, dynamic. -/
  | resbDyn (d s : RegNo)
  /-- RES. R206, static: R, IR, DA, X. -/
  | res (dst : Dst) (n : BitVec 4)
  /-- RES. R206, dynamic. -/
  | resDyn (d s : RegNo)
  /-- SETB. R207, static: R, IR, DA, X. -/
  | setb (dst : Dst) (n : BitVec 3)
  /-- SETB. R207, dynamic. -/
  | setbDyn (d s : RegNo)
  /-- SET. R207, static: R, IR, DA, X. -/
  | set (dst : Dst) (n : BitVec 4)
  /-- SET. R207, dynamic. -/
  | setDyn (d s : RegNo)
  /-- TCCB. R208. -/
  | tccb (cc : Cond) (d : RegNo)
  /-- TCC. R208. -/
  | tcc (cc : Cond) (d : RegNo)
  /-- TSETB. R209: R, IR, DA, X. -/
  | tsetb (dst : Dst)
  /-- TSET. R209: R, IR, DA, X. -/
  | tset (dst : Dst)
  -- Rotate and shift (45_rotate_shift.md)
  /-- RLB. R216: by one, or by two when `twice`. -/
  | rlb (d : RegNo) (twice : Bool)
  /-- RL. R216: by one, or by two when `twice`. -/
  | rl (d : RegNo) (twice : Bool)
  /-- RLCB. R217: by one, or by two when `twice`. -/
  | rlcb (d : RegNo) (twice : Bool)
  /-- RLC. R217: by one, or by two when `twice`. -/
  | rlc (d : RegNo) (twice : Bool)
  /-- RRB. R219: by one, or by two when `twice`. -/
  | rrb (d : RegNo) (twice : Bool)
  /-- RR. R219: by one, or by two when `twice`. -/
  | rr (d : RegNo) (twice : Bool)
  /-- RRCB. R220: by one, or by two when `twice`. -/
  | rrcb (d : RegNo) (twice : Bool)
  /-- RRC. R220: by one, or by two when `twice`. -/
  | rrc (d : RegNo) (twice : Bool)
  /-- RLDB. R218: link, source. -/
  | rldb (l s : RegNo)
  /-- RRDB. R221: link, source. -/
  | rrdb (l s : RegNo)
  /-- SDAB. R222. -/
  | sdab (d s : RegNo)
  /-- SDA. R222. -/
  | sda (d s : RegNo)
  /-- SDAL. R222. -/
  | sdal (d s : RegNo)
  /-- SDLB. R223. -/
  | sdlb (d s : RegNo)
  /-- SDL. R223. -/
  | sdl (d s : RegNo)
  /-- SDLL. R223. -/
  | sdll (d s : RegNo)
  /-- SLAB. R224. -/
  | slab (d : RegNo) (n : Nat)
  /-- SLA. R224. -/
  | sla (d : RegNo) (n : Nat)
  /-- SLAL. R224. -/
  | slal (d : RegNo) (n : Nat)
  /-- SLLB. R225. -/
  | sllb (d : RegNo) (n : Nat)
  /-- SLL. R225. -/
  | sll (d : RegNo) (n : Nat)
  /-- SLLL. R225. -/
  | slll (d : RegNo) (n : Nat)
  /-- SRAB. R226. -/
  | srab (d : RegNo) (n : Nat)
  /-- SRA. R226. -/
  | sra (d : RegNo) (n : Nat)
  /-- SRAL. R226. -/
  | sral (d : RegNo) (n : Nat)
  /-- SRLB. R227. -/
  | srlb (d : RegNo) (n : Nat)
  /-- SRL. R227. -/
  | srl (d : RegNo) (n : Nat)
  /-- SRLL. R227. -/
  | srll (d : RegNo) (n : Nat)
  -- Block transfer and string compare (46_block_string.md)
  /-- CPDB. R240. -/
  | cpdb (d s r : RegNo) (cc : Cond)
  /-- CPD. R240. -/
  | cpd (d s r : RegNo) (cc : Cond)
  /-- CPDRB. R241. -/
  | cpdrb (d s r : RegNo) (cc : Cond)
  /-- CPDR. R241. -/
  | cpdr (d s r : RegNo) (cc : Cond)
  /-- CPIB. R242. -/
  | cpib (d s r : RegNo) (cc : Cond)
  /-- CPI. R242. -/
  | cpi (d s r : RegNo) (cc : Cond)
  /-- CPIRB. R243. -/
  | cpirb (d s r : RegNo) (cc : Cond)
  /-- CPIR. R243. -/
  | cpir (d s r : RegNo) (cc : Cond)
  /-- CPSDB. R244. -/
  | cpsdb (d s r : RegNo) (cc : Cond)
  /-- CPSD. R244. -/
  | cpsd (d s r : RegNo) (cc : Cond)
  /-- CPSDRB. R245. -/
  | cpsdrb (d s r : RegNo) (cc : Cond)
  /-- CPSDR. R245. -/
  | cpsdr (d s r : RegNo) (cc : Cond)
  /-- CPSIB. R246. -/
  | cpsib (d s r : RegNo) (cc : Cond)
  /-- CPSI. R246. -/
  | cpsi (d s r : RegNo) (cc : Cond)
  /-- CPSIRB. R247. -/
  | cpsirb (d s r : RegNo) (cc : Cond)
  /-- CPSIR. R247. -/
  | cpsir (d s r : RegNo) (cc : Cond)
  /-- LDDB. R248. -/
  | lddb (d s r : RegNo)
  /-- LDD. R248. -/
  | ldd (d s r : RegNo)
  /-- LDDRB. R249. -/
  | lddrb (d s r : RegNo)
  /-- LDDR. R249. -/
  | lddr (d s r : RegNo)
  /-- LDIB. R250. -/
  | ldib (d s r : RegNo)
  /-- LDI. R250. -/
  | ldi (d s r : RegNo)
  /-- LDIRB. R251. -/
  | ldirb (d s r : RegNo)
  /-- LDIR. R251. -/
  | ldir (d s r : RegNo)
  -- Translate (47_translate.md)
  /-- TRDB. R258: string pointer, table pointer, counter. -/
  | trdb (d s r : RegNo)
  /-- TRDRB. R259: string pointer, table pointer, counter. -/
  | trdrb (d s r : RegNo)
  /-- TRIB. R260: string pointer, table pointer, counter. -/
  | trib (d s r : RegNo)
  /-- TRIRB. R261: string pointer, table pointer, counter. -/
  | trirb (d s r : RegNo)
  /-- TRTDB. R262: string pointer, table pointer, counter. -/
  | trtdb (s t r : RegNo)
  /-- TRTDRB. R263: string pointer, table pointer, counter. -/
  | trtdrb (s t r : RegNo)
  /-- TRTIB. R264: string pointer, table pointer, counter. -/
  | trtib (s t r : RegNo)
  /-- TRTIRB. R265: string pointer, table pointer, counter. -/
  | trtirb (s t r : RegNo)
  -- Input and output (48_io.md), all privileged
  /-- INB. R272. -/
  | inpb (d : RegNo) (port : Port)
  /-- IN. R272. -/
  | inp (d : RegNo) (port : Port)
  /-- OUTB. R273. -/
  | outb (port : Port) (s : RegNo)
  /-- OUT. R273. -/
  | out (port : Port) (s : RegNo)
  /-- SINB. R274. -/
  | sinb (d : RegNo) (port : Word)
  /-- SIN. R274. -/
  | sin (d : RegNo) (port : Word)
  /-- SOUTB. R292. -/
  | soutb (port : Word) (s : RegNo)
  /-- SOUT. R292. -/
  | sout (port : Word) (s : RegNo)
  /-- INDB. R275. -/
  | indb (d s r : RegNo)
  /-- IND. R275. -/
  | ind (d s r : RegNo)
  /-- INDRB. R276. -/
  | indrb (d s r : RegNo)
  /-- INDR. R276. -/
  | indr (d s r : RegNo)
  /-- INIB. R277. -/
  | inib (d s r : RegNo)
  /-- INI. R277. -/
  | ini (d s r : RegNo)
  /-- INIRB. R278. -/
  | inirb (d s r : RegNo)
  /-- INIR. R278. -/
  | inir (d s r : RegNo)
  /-- OTDRB. R279. -/
  | otdrb (d s r : RegNo)
  /-- OTDR. R279. -/
  | otdr (d s r : RegNo)
  /-- OTIRB. R280. -/
  | otirb (d s r : RegNo)
  /-- OTIR. R280. -/
  | otir (d s r : RegNo)
  /-- OUTDB. R281. -/
  | outdb (d s r : RegNo)
  /-- OUTD. R281. -/
  | outd (d s r : RegNo)
  /-- OUTIB. R282. -/
  | outib (d s r : RegNo)
  /-- OUTI. R282. -/
  | outi (d s r : RegNo)
  /-- SINDB. R283. -/
  | sindb (d s r : RegNo)
  /-- SIND. R283. -/
  | sind (d s r : RegNo)
  /-- SINDRB. R284. -/
  | sindrb (d s r : RegNo)
  /-- SINDR. R284. -/
  | sindr (d s r : RegNo)
  /-- SINIB. R285. -/
  | sinib (d s r : RegNo)
  /-- SINI. R285. -/
  | sini (d s r : RegNo)
  /-- SINIRB. R286. -/
  | sinirb (d s r : RegNo)
  /-- SINIR. R286. -/
  | sinir (d s r : RegNo)
  /-- SOUTDB. R292. -/
  | soutdb (d s r : RegNo)
  /-- SOUTD. R292. -/
  | soutd (d s r : RegNo)
  /-- SOUTIB. R292. -/
  | soutib (d s r : RegNo)
  /-- SOUTI. R292. -/
  | souti (d s r : RegNo)
  /-- SOTDRB. R292. -/
  | sotdrb (d s r : RegNo)
  /-- SOTDR. R292. -/
  | sotdr (d s r : RegNo)
  /-- SOTIRB. R292. -/
  | sotirb (d s r : RegNo)
  /-- SOTIR. R292. -/
  | sotir (d s r : RegNo)
  -- CPU control (49_cpu_control.md)
  /-- COMFLG. R300. -/
  | comflg (mask : BitVec 4)
  /-- DI. R301, privileged: which kinds are selected (instruction bit 0). -/
  | di (vi nvi : Bool)
  /-- EI. R302, privileged: which kinds are selected (instruction bit 0). -/
  | ei (vi nvi : Bool)
  /-- HALT. R303, privileged. -/
  | halt
  /-- LDCTL. R304, privileged: control register to general register. -/
  | ldctlRead (d : RegNo) (c : CtlReg)
  /-- LDCTL. R304, privileged: general register to control register. -/
  | ldctlWrite (c : CtlReg) (s : RegNo)
  /-- LDCTLB. R305: FLAGS to byte register. -/
  | ldctlbRead (d : RegNo)
  /-- LDCTLB. R305: byte register to FLAGS. -/
  | ldctlbWrite (s : RegNo)
  /-- LDPS. R306, privileged: IR, DA, X. -/
  | ldps (src : Mem)
  /-- MBIT. R307, privileged. -/
  | mbit
  /-- MREQ. R308, privileged. -/
  | mreq (d : RegNo)
  /-- MRES. R309, privileged. -/
  | mres
  /-- MSET. R310, privileged. -/
  | mset
  /-- NOP. R311. -/
  | nop
  /-- RESFLG. R312. -/
  | resflg (mask : BitVec 4)
  /-- SETFLG. R313. -/
  | setflg (mask : BitVec 4)
  -- Extended instructions (30_encoding.md R133)
  /-- EPA. R331. -/
  | epa (op : EpaOp) (x : Byte)
  deriving DecidableEq, Repr

end Sys2Proof
end

