-- ==== Sys2Proof/WellFormed.lean ====
section
/-! DEFINITION. Which instructions have a defined encoding (30_encoding.md R93, R96, R100, R101, R114).

`wf seg` is the check in segmented (`seg = true`) or non-segmented mode: the mode decides the shape of an address
(R97, R98) and whether a pointer field names a pair (R93), so it is an input of the decoder (R134). -/

namespace Sys2Proof

/-- A pair field is even (R93, U5). -/
def evenReg (k : RegNo) : Bool := !k.getLsbD 0

/-- A quadruple field is a multiple of 4 (R93, U5). -/
def quadReg (k : RegNo) : Bool := !k.getLsbD 0 && !k.getLsbD 1

/-- Register 0 cannot be an index, a port register or a pointer (R101). -/
def nonzeroReg (k : RegNo) : Bool := k != 0

/-- A pointer or base field: not register 0, and a pair in segmented mode (R93, R101). -/
def pointerReg (seg : Bool) (k : RegNo) : Bool := nonzeroReg k && (!seg || evenReg k)

/-- The destination of an address (LDA, LDAR): a pair in segmented mode (R144, R145). -/
def addressReg (seg : Bool) (k : RegNo) : Bool := !seg || evenReg k

/-- The register field of an operand of width `W` (R93): only a long needs an even one. -/
def operandReg (W : Width) (k : RegNo) : Bool :=
  match W with
  | .byte | .word => true
  | .long => evenReg k

/-- The address form belongs to the mode (R97, R98). -/
def AddrField.wf (seg : Bool) : AddrField → Bool
  | .near _ => !seg
  | .short _ _ | .long _ _ => seg

/-- A memory operand's registers and address are encodable (R100, R101). -/
def Mem.wf (seg : Bool) : Mem → Bool
  | .ir p => pointerReg seg p
  | .da a => a.wf seg
  | .x a i => a.wf seg && nonzeroReg i

/-- A based operand's registers are encodable (R100, R101). -/
def Based.wf (seg : Bool) : Based → Bool
  | .ba p _ => pointerReg seg p
  | .bx p i => pointerReg seg p && nonzeroReg i

/-- A register or memory operand of width `W`. -/
def Dst.wf (seg : Bool) (W : Width) : Dst → Bool
  | .reg k => operandReg W k
  | .mem m => m.wf seg

/-- A source operand of width `W`. -/
def Src.wf {W : Width} (seg : Bool) : Src W → Bool
  | .reg k => operandReg W k
  | .imm _ => true
  | .mem m => m.wf seg

/-- A port operand: the port register is not register 0 (R101). -/
def Port.wf : Port → Bool
  | .ind p => nonzeroReg p
  | .direct _ => true

/-- The instruction has a defined encoding in the mode `seg`. -/
def Instr.wf (seg : Bool) : Instr → Bool
  | .clrb dst | .comb dst | .negb dst | .testb dst | .tsetb dst => dst.wf seg .byte
  | .clr dst | .com dst | .neg dst | .test dst | .tset dst => dst.wf seg .word
  | .testl dst => dst.wf seg .long
  | .incb dst _ | .decb dst _ => dst.wf seg .byte
  | .inc dst _ | .dec dst _ => dst.wf seg .word
  | .bitb dst _ | .resb dst _ | .setb dst _ => dst.wf seg .byte
  | .bit dst _ | .res dst _ | .set dst _ => dst.wf seg .word
  | .exb _ src => src.wf seg .byte
  | .ex _ src => src.wf seg .word
  | .ldb _ src | .addb _ src | .subb _ src | .cpb _ src | .andb _ src | .orb _ src | .xorb _ src => src.wf seg
  | .ld _ src | .add _ src | .sub _ src | .cp _ src | .and _ src | .or _ src | .xor _ src => src.wf seg
  | .ldl d src | .addl d src | .subl d src | .cpl d src => evenReg d && src.wf seg
  | .mult d src | .div d src => evenReg d && src.wf seg
  | .multl d src | .divl d src => quadReg d && src.wf seg
  | .ldbBased _ src | .ldBased _ src => src.wf seg
  | .ldlBased d src => evenReg d && src.wf seg
  | .ldbStore dst _ | .ldStore dst _ | .ldbStoreImm dst _ | .ldStoreImm dst _ | .cpbImm dst _ | .cpImm dst _ => dst.wf seg
  | .ldlStore dst s => dst.wf seg && evenReg s
  | .ldbStoreBased dst _ | .ldStoreBased dst _ => dst.wf seg
  | .ldlStoreBased dst s => dst.wf seg && evenReg s
  | .lda d addr => addressReg seg d && addr.wf seg
  | .ldaIndexed d addr x => addressReg seg d && addr.wf seg && nonzeroReg x
  | .ldaBased d src => addressReg seg d && src.wf seg
  | .ldar d _ => addressReg seg d
  | .ldmLoad _ m _ | .ldmStore m _ _ | .call m | .jp _ m | .ldps m => m.wf seg
  | .ldrl d _ | .ldrlStore _ d | .exts d | .sdal d _ | .sdll d _ => evenReg d
  | .extsl d => quadReg d
  | .pop dst s => dst.wf seg .word && pointerReg seg s
  | .popl dst s => dst.wf seg .long && pointerReg seg s
  | .push d src => pointerReg seg d && src.wf seg
  | .pushl d src => pointerReg seg d && src.wf seg .long
  | .bitbDyn _ s | .resbDyn _ s | .setbDyn _ s => !s.msb
  | .slab _ n | .sllb _ n => n ≤ 8
  | .srab _ n | .srlb _ n => 1 ≤ n && n ≤ 8
  | .sla _ n | .sll _ n => n ≤ 16
  | .sra _ n | .srl _ n => 1 ≤ n && n ≤ 16
  | .slal d n | .slll d n => evenReg d && n ≤ 32
  | .sral d n | .srll d n => evenReg d && 1 ≤ n && n ≤ 32
  | .cpdb _ s _ _ | .cpd _ s _ _ | .cpdrb _ s _ _ | .cpdr _ s _ _ | .cpib _ s _ _ | .cpi _ s _ _
  | .cpirb _ s _ _ | .cpir _ s _ _ => pointerReg seg s
  | .cpsdb d s _ _ | .cpsd d s _ _ | .cpsdrb d s _ _ | .cpsdr d s _ _ | .cpsib d s _ _ | .cpsi d s _ _
  | .cpsirb d s _ _ | .cpsir d s _ _ | .lddb d s _ | .ldd d s _ | .lddrb d s _ | .lddr d s _ | .ldib d s _
  | .ldi d s _ | .ldirb d s _ | .ldir d s _ => pointerReg seg d && pointerReg seg s
  | .trdb p t _ | .trdrb p t _ | .trib p t _ | .trirb p t _ | .trtdb p t _ | .trtdrb p t _ | .trtib p t _
  | .trtirb p t _ => pointerReg seg p && pointerReg seg t
  | .inpb _ port | .inp _ port | .outb port _ | .out port _ => port.wf
  | .indb d s _ | .ind d s _ | .indrb d s _ | .indr d s _ | .inib d s _ | .ini d s _ | .inirb d s _
  | .inir d s _ | .sindb d s _ | .sind d s _ | .sindrb d s _ | .sindr d s _ | .sinib d s _ | .sini d s _
  | .sinirb d s _ | .sinir d s _ => pointerReg seg d && nonzeroReg s
  | .outdb d s _ | .outd d s _ | .otdrb d s _ | .otdr d s _ | .outib d s _ | .outi d s _ | .otirb d s _
  | .otir d s _ | .soutdb d s _ | .soutd d s _ | .sotdrb d s _ | .sotdr d s _ | .soutib d s _ | .souti d s _
  | .sotirb d s _ | .sotir d s _ => nonzeroReg d && pointerReg seg s
  | .ldbShort _ _ | .ldk _ _ | .ldrb _ _ | .ldrbStore _ _ | .ldr _ _ | .ldrStore _ _ | .adcb _ _ | .adc _ _
  | .sbcb _ _ | .sbc _ _ | .dab _ | .extsb _ | .calr _ | .dbjnz _ _ | .djnz _ _ | .iret | .jr _ _ | .ret _
  | .sc _ | .bitDyn _ _ | .resDyn _ _ | .setDyn _ _ | .tccb _ _ | .tcc _ _ | .rlb _ _ | .rl _ _ | .rlcb _ _
  | .rlc _ _ | .rrb _ _ | .rr _ _ | .rrcb _ _ | .rrc _ _ | .rldb _ _ | .rrdb _ _ | .sdab _ _ | .sda _ _
  | .sdlb _ _ | .sdl _ _ | .sinb _ _ | .sin _ _ | .soutb _ _ | .sout _ _ | .comflg _ | .di _ _ | .ei _ _
  | .halt | .ldctlRead _ _ | .ldctlWrite _ _ | .ldctlbRead _ | .ldctlbWrite _ | .mbit | .mreq _ | .mres
  | .mset | .nop | .resflg _ | .setflg _ | .epa _ _ => true

end Sys2Proof
end

