-- ==== Sys2Proof/Decode.lean ====
section
/-! DEFINITION. The decoder, total on any bytes, and the encoder (30_encoding.md).

A first word is `m op a b`: the mode field `w[15:14]`, the opcode field `w[13:8]`, the fields A and B (R91). `parse`
follows the opcode map R120 row by row; an encoding no row gives is `bad` (R130, R131, verdict
`undefined_encoding`); an instruction whose later words are missing is `short`. Fields are then checked by
`Instr.wf`. All of these encodings are the spec's general knowledge (G30 to G39): log 34. -/

namespace Sys2Proof

/-- The result of reading an instruction from a list of words. -/
inductive Parse (α : Type) where
  | ok (a : α) (rest : List Word)
  | short
  | bad
  deriving DecidableEq, Repr

/-- Go on reading. -/
def Parse.andThen {α β : Type} (p : Parse α) (f : α → List Word → Parse β) : Parse β :=
  match p with
  | .ok a rest => f a rest
  | .short => .short
  | .bad => .bad

/-- Apply a constructor to what was read. -/
def Parse.map {α β : Type} (f : α → β) (p : Parse α) : Parse β :=
  p.andThen fun a rest => .ok (f a) rest

/-! ## Words, fields and codes -/

/-- The words of a list of bytes, the high-order byte first (20_memory.md R64). An odd byte at the end is no word. -/
def wordsOfBytes : List Byte → List Word
  | hi :: lo :: rest => (hi ++ lo) :: wordsOfBytes rest
  | _ => []

/-- The bytes of a list of words, the high-order byte first (20_memory.md R64). -/
def bytesOfWords : List Word → List Byte
  | [] => []
  | w :: ws => w.extractLsb' 8 8 :: w.extractLsb' 0 8 :: bytesOfWords ws

/-- The mode field M (R91). -/
def fieldM (w : Word) : BitVec 2 := w.extractLsb' 14 2

/-- The opcode field (R91). -/
def fieldOp (w : Word) : BitVec 6 := w.extractLsb' 8 6

/-- Field A (R91). -/
def fieldA (w : Word) : BitVec 4 := w.extractLsb' 4 4

/-- Field B (R91). -/
def fieldB (w : Word) : BitVec 4 := w.extractLsb' 0 4

/-- A first word from its four fields (R91). -/
def firstWord (m : BitVec 2) (op : BitVec 6) (a b : BitVec 4) : Word := m ++ op ++ a ++ b

/-- A compact first word: `11`, the rest of the upper nibble, a 4-bit field, a byte (R91, R120). -/
def compactWord (k : BitVec 2) (f : BitVec 4) (v : BitVec 8) : Word := 0b11#2 ++ k ++ f ++ v

/-- A second opcode word `0000 rrrr dddd tttt` (R121 to R124). -/
def secondWord (r d t : BitVec 4) : Word := 0#4 ++ r ++ d ++ t

/-- The condition a 4-bit code stands for (R110). -/
def Cond.ofCode (c : BitVec 4) : Cond :=
  match c with
  | 0x0#4 => .f | 0x1#4 => .lt | 0x2#4 => .le | 0x3#4 => .ule | 0x4#4 => .ov | 0x5#4 => .mi | 0x6#4 => .z
  | 0x7#4 => .c | 0x8#4 => .t | 0x9#4 => .ge | 0xA#4 => .gt | 0xB#4 => .ugt | 0xC#4 => .nov | 0xD#4 => .pl
  | 0xE#4 => .nz | _ => .nc

/-- The 4-bit code of a condition (R110). -/
def Cond.code : Cond → BitVec 4
  | .f => 0x0#4 | .lt => 0x1#4 | .le => 0x2#4 | .ule => 0x3#4 | .ov => 0x4#4 | .mi => 0x5#4 | .z => 0x6#4
  | .c => 0x7#4 | .t => 0x8#4 | .ge => 0x9#4 | .gt => 0xA#4 | .ugt => 0xB#4 | .nov => 0xC#4 | .pl => 0xD#4
  | .nz => 0xE#4 | .nc => 0xF#4

/-- The control register a 3-bit code names (10_state.md R33); codes 0 and 1 name none (R130). -/
def CtlReg.ofCode (c : BitVec 3) : Option CtlReg :=
  match c with
  | 2#3 => some .fcw
  | 3#3 => some .refresh
  | 4#3 => some .psapSeg
  | 5#3 => some .psapOff
  | 6#3 => some .nspSeg
  | 7#3 => some .nspOff
  | _ => none

/-- The 3-bit code of a control register (10_state.md R33). -/
def CtlReg.code : CtlReg → BitVec 3
  | .fcw => 2#3
  | .refresh => 3#3
  | .psapSeg => 4#3
  | .psapOff => 5#3
  | .nspSeg => 6#3
  | .nspOff => 7#3

/-! ## Reading operands -/

/-- One word. -/
def parseWord : List Word → Parse Word
  | [] => .short
  | w :: ws => .ok w ws

/-- An address word, or the two forms of segmented mode (R97, R98). Bits 7..0 of the first word of the long form are
ignored (R98). -/
def parseAddr (seg : Bool) (ws : List Word) : Parse AddrField :=
  (parseWord ws).andThen fun w ws =>
    if !seg then .ok (.near w) ws
    else if w.msb then (parseWord ws).map (.long (w.extractLsb' 8 7))
    else .ok (.short (w.extractLsb' 8 7) (w.extractLsb' 0 8)) ws

/-- Immediate data (R94, R95). A byte immediate whose two halves differ is not a defined encoding (D20). -/
def parseImm (W : Width) (ws : List Word) : Parse (BitVec W.bits) :=
  match W with
  | .byte => (parseWord ws).andThen fun w ws =>
      if w.extractLsb' 8 8 = w.extractLsb' 0 8 then .ok (w.extractLsb' 0 8) ws else .bad
  | .word => parseWord ws
  | .long => (parseWord ws).andThen fun hi ws => (parseWord ws).map fun lo => hi ++ lo

/-- A memory operand in mode field `m` with register field `a`: IR, DA or X (R91, R100). -/
def parseMem (seg : Bool) (m : BitVec 2) (a : RegNo) (ws : List Word) : Parse Mem :=
  if m = 0 then .ok (.ir a) ws
  else if m = 1 then (parseAddr seg ws).map fun addr => if a = 0 then .da addr else .x addr a
  else .bad

/-- A register or memory operand: R, IR, DA or X (R91, R102). -/
def parseDst (seg : Bool) (m : BitVec 2) (a : RegNo) (ws : List Word) : Parse Dst :=
  if m = 2 then .ok (.reg a) ws else (parseMem seg m a ws).map .mem

/-- A source operand: R, IM, IR, DA or X (R91, R102). -/
def parseSrc (seg : Bool) (W : Width) (m : BitVec 2) (a : RegNo) (ws : List Word) : Parse (Src W) :=
  if m = 2 then .ok (.reg a) ws
  else if m = 0 ∧ a = 0 then (parseImm W ws).map .imm
  else (parseMem seg m a ws).map .mem

/-- A second opcode word; its high nibble must be 0 (R131). -/
def parseSecond (ws : List Word) : Parse (BitVec 4 × BitVec 4 × BitVec 4) :=
  (parseWord ws).andThen fun w ws =>
    if w.extractLsb' 12 4 = 0 then .ok (w.extractLsb' 8 4, w.extractLsb' 4 4, w.extractLsb' 0 4) ws else .bad

/-- A second opcode word `0000 rrrr 0000 0000` (R124, R100 for BX). -/
def parseOneReg (ws : List Word) : Parse RegNo :=
  (parseSecond ws).andThen fun (r, d, t) ws => if d = 0 ∧ t = 0 then .ok r ws else .bad

/-- The register or memory operand, seen as a source. -/
def Dst.toSrc {W : Width} : Dst → Src W
  | .reg k => .reg k
  | .mem m => .mem m

/-! ## The groups of the opcode map -/

/-- Upper bytes %0C, %4C, %8C: the byte one-operand group (R120). -/
def parseOneOpB (seg : Bool) (m : BitVec 2) (a b : BitVec 4) (ws : List Word) : Parse Instr :=
  match b with
  | 0x0#4 => (parseDst seg m a ws).map .comb
  | 0x1#4 => if m = 2 then .ok (.ldctlbRead a) ws
             else (parseMem seg m a ws).andThen fun dst ws => (parseImm .byte ws).map (.cpbImm dst)
  | 0x2#4 => (parseDst seg m a ws).map .negb
  | 0x4#4 => (parseDst seg m a ws).map .testb
  | 0x5#4 => (parseMem seg m a ws).andThen fun dst ws => (parseImm .byte ws).map (.ldbStoreImm dst)
  | 0x6#4 => (parseDst seg m a ws).map .tsetb
  | 0x8#4 => (parseDst seg m a ws).map .clrb
  | 0x9#4 => if m = 2 then .ok (.ldctlbWrite a) ws else .bad
  | _ => .bad

/-- Upper bytes %0D, %4D, %8D: the word one-operand group, PUSH immediate, the flag instructions, NOP (R120). -/
def parseOneOp (seg : Bool) (m : BitVec 2) (a b : BitVec 4) (ws : List Word) : Parse Instr :=
  match b with
  | 0x0#4 => (parseDst seg m a ws).map .com
  | 0x1#4 => if m = 2 then .ok (.setflg a) ws
             else (parseMem seg m a ws).andThen fun dst ws => (parseImm .word ws).map (.cpImm dst)
  | 0x2#4 => (parseDst seg m a ws).map .neg
  | 0x3#4 => if m = 2 then .ok (.resflg a) ws else .bad
  | 0x4#4 => (parseDst seg m a ws).map .test
  | 0x5#4 => if m = 2 then .ok (.comflg a) ws
             else (parseMem seg m a ws).andThen fun dst ws => (parseImm .word ws).map (.ldStoreImm dst)
  | 0x6#4 => (parseDst seg m a ws).map .tset
  | 0x7#4 => if m = 2 ∧ a = 0 then .ok .nop ws else .bad
  | 0x8#4 => (parseDst seg m a ws).map .clr
  | 0x9#4 => if m = 0 then (parseImm .word ws).map fun v => .push a (.imm v) else .bad
  | _ => .bad

/-- Upper bytes %1C, %5C, %9C: TESTL and LDM, whose second word `0000 rrrr 0000 nnnn` stands before the address (R120). -/
def parseLdm (seg : Bool) (m : BitVec 2) (a b : BitVec 4) (ws : List Word) : Parse Instr :=
  match b with
  | 0x8#4 => (parseDst seg m a ws).map .testl
  | 0x1#4 => if m = 2 then .bad else (parseSecond ws).andThen fun (r, d, n) ws =>
      if d = 0 then (parseMem seg m a ws).map fun src => .ldmLoad r src n else .bad
  | 0x9#4 => if m = 2 then .bad else (parseSecond ws).andThen fun (r, d, n) ws =>
      if d = 0 then (parseMem seg m a ws).map fun dst => .ldmStore dst r n else .bad
  | _ => .bad

/-- A byte bit instruction: dynamic when M = 0 and field A = 0, else static with a bit number 0 to 7 (R96, R120). -/
def parseBitB (seg : Bool) (stat : Dst → BitVec 3 → Instr) (dyn : RegNo → RegNo → Instr) (m : BitVec 2)
    (a b : BitVec 4) (ws : List Word) : Parse Instr :=
  if m = 0 ∧ a = 0 then (parseOneReg ws).map fun d => dyn d b
  else if b.msb then .bad
  else (parseDst seg m a ws).map fun dst => stat dst (b.extractLsb' 0 3)

/-- A word bit instruction: dynamic when M = 0 and field A = 0, else static (R96, R120). -/
def parseBit (seg : Bool) (stat : Dst → BitVec 4 → Instr) (dyn : RegNo → RegNo → Instr) (m : BitVec 2)
    (a b : BitVec 4) (ws : List Word) : Parse Instr :=
  if m = 0 ∧ a = 0 then (parseOneReg ws).map fun d => dyn d b
  else (parseDst seg m a ws).map fun dst => stat dst b

/-- The BA, RA and BX forms of upper bytes %30 to %37 and %70 to %77 (R91, R120); `m` is 0 or 1. -/
def parseBased (based : Based → Instr) (rel : Word → Instr) (m : BitVec 2) (a : BitVec 4) (ws : List Word) :
    Parse Instr :=
  if m = 0 then (parseWord ws).map fun disp => if a = 0 then rel disp else based (.ba a disp)
  else (parseOneReg ws).map fun x => based (.bx a x)

/-- A static shift: the sign of the count tells left from right, and its size is at most `W` (R114, U7). -/
def shiftOf (bits : Nat) (left right : Nat → Instr) (count : Int) (ws : List Word) : Parse Instr :=
  if 0 ≤ count ∧ count ≤ bits then .ok (left count.toNat) ws
  else if -bits ≤ count ∧ count < 0 then .ok (right (-count).toNat) ws
  else .bad

/-- Upper byte %B2: byte shifts and rotates (R124). The count is the signed low byte of its word (R114, D21). -/
def parseShiftB (a b : BitVec 4) (ws : List Word) : Parse Instr :=
  match b with
  | 0x0#4 => .ok (.rlb a false) ws
  | 0x2#4 => .ok (.rlb a true) ws
  | 0x4#4 => .ok (.rrb a false) ws
  | 0x6#4 => .ok (.rrb a true) ws
  | 0x8#4 => .ok (.rlcb a false) ws
  | 0xA#4 => .ok (.rlcb a true) ws
  | 0xC#4 => .ok (.rrcb a false) ws
  | 0xE#4 => .ok (.rrcb a true) ws
  | 0x1#4 => (parseWord ws).andThen fun w ws => shiftOf 8 (.sllb a) (.srlb a) (w.extractLsb' 0 8).toInt ws
  | 0x9#4 => (parseWord ws).andThen fun w ws => shiftOf 8 (.slab a) (.srab a) (w.extractLsb' 0 8).toInt ws
  | 0x3#4 => (parseOneReg ws).map (.sdlb a)
  | 0xB#4 => (parseOneReg ws).map (.sdab a)
  | _ => .bad

/-- Upper byte %B3: word and long shifts and rotates (R124). The count is the whole word (R114). -/
def parseShift (a b : BitVec 4) (ws : List Word) : Parse Instr :=
  match b with
  | 0x0#4 => .ok (.rl a false) ws
  | 0x2#4 => .ok (.rl a true) ws
  | 0x4#4 => .ok (.rr a false) ws
  | 0x6#4 => .ok (.rr a true) ws
  | 0x8#4 => .ok (.rlc a false) ws
  | 0xA#4 => .ok (.rlc a true) ws
  | 0xC#4 => .ok (.rrc a false) ws
  | 0xE#4 => .ok (.rrc a true) ws
  | 0x1#4 => (parseWord ws).andThen fun w ws => shiftOf 16 (.sll a) (.srl a) w.toInt ws
  | 0x5#4 => (parseWord ws).andThen fun w ws => shiftOf 32 (.slll a) (.srll a) w.toInt ws
  | 0x9#4 => (parseWord ws).andThen fun w ws => shiftOf 16 (.sla a) (.sra a) w.toInt ws
  | 0xD#4 => (parseWord ws).andThen fun w ws => shiftOf 32 (.slal a) (.sral a) w.toInt ws
  | 0x3#4 => (parseOneReg ws).map (.sdl a)
  | 0x7#4 => (parseOneReg ws).map (.sdll a)
  | 0xB#4 => (parseOneReg ws).map (.sda a)
  | _ => (parseOneReg ws).map (.sdal a)

/-- Upper byte %B8: the translate group (R123). -/
def parseTranslate (a b : BitVec 4) (ws : List Word) : Parse Instr :=
  (parseSecond ws).andThen fun (r, s, t) ws =>
    match b, t with
    | 0x0#4, 0x0#4 => .ok (.trib a s r) ws
    | 0x4#4, 0x0#4 => .ok (.trirb a s r) ws
    | 0x8#4, 0x0#4 => .ok (.trdb a s r) ws
    | 0xC#4, 0x0#4 => .ok (.trdrb a s r) ws
    | 0x2#4, 0x0#4 => .ok (.trtib a s r) ws
    | 0x6#4, 0xE#4 => .ok (.trtirb a s r) ws
    | 0xA#4, 0x0#4 => .ok (.trtdb a s r) ws
    | 0xE#4, 0xE#4 => .ok (.trtdrb a s r) ws
    | _, _ => .bad

/-- The single (t = 8) or the repeating (t = 0) form of a block instruction (R121, R122). -/
def single (t : BitVec 4) (one repeating : Instr) (ws : List Word) : Parse Instr :=
  if t = 8 then .ok one ws else if t = 0 then .ok repeating ws else .bad

/-- Upper byte %BA: the byte string group (R122). -/
def parseStringB (a b : BitVec 4) (ws : List Word) : Parse Instr :=
  (parseSecond ws).andThen fun (r, d, t) ws =>
    match b with
    | 0x0#4 => .ok (.cpib d a r (.ofCode t)) ws
    | 0x4#4 => .ok (.cpirb d a r (.ofCode t)) ws
    | 0x8#4 => .ok (.cpdb d a r (.ofCode t)) ws
    | 0xC#4 => .ok (.cpdrb d a r (.ofCode t)) ws
    | 0x2#4 => .ok (.cpsib d a r (.ofCode t)) ws
    | 0x6#4 => .ok (.cpsirb d a r (.ofCode t)) ws
    | 0xA#4 => .ok (.cpsdb d a r (.ofCode t)) ws
    | 0xE#4 => .ok (.cpsdrb d a r (.ofCode t)) ws
    | 0x1#4 => single t (.ldib d a r) (.ldirb d a r) ws
    | 0x9#4 => single t (.lddb d a r) (.lddrb d a r) ws
    | _ => .bad

/-- Upper byte %BB: the word string group (R122). -/
def parseString (a b : BitVec 4) (ws : List Word) : Parse Instr :=
  (parseSecond ws).andThen fun (r, d, t) ws =>
    match b with
    | 0x0#4 => .ok (.cpi d a r (.ofCode t)) ws
    | 0x4#4 => .ok (.cpir d a r (.ofCode t)) ws
    | 0x8#4 => .ok (.cpd d a r (.ofCode t)) ws
    | 0xC#4 => .ok (.cpdr d a r (.ofCode t)) ws
    | 0x2#4 => .ok (.cpsi d a r (.ofCode t)) ws
    | 0x6#4 => .ok (.cpsir d a r (.ofCode t)) ws
    | 0xA#4 => .ok (.cpsd d a r (.ofCode t)) ws
    | 0xE#4 => .ok (.cpsdr d a r (.ofCode t)) ws
    | 0x1#4 => single t (.ldi d a r) (.ldir d a r) ws
    | 0x9#4 => single t (.ldd d a r) (.lddr d a r) ws
    | _ => .bad

/-- A block I/O instruction: `0000 rrrr dddd 1000` single, `0000 rrrr dddd 0000` repeating; field A = Rs (R121). -/
def parseBlockIo (one repeating : RegNo → RegNo → RegNo → Instr) (a : BitVec 4) (ws : List Word) : Parse Instr :=
  (parseSecond ws).andThen fun (r, d, t) ws => single t (one d a r) (repeating d a r) ws

/-- Upper byte %3A: the byte I/O group (R121). -/
def parseIoB (a b : BitVec 4) (ws : List Word) : Parse Instr :=
  match b with
  | 0x0#4 => parseBlockIo .inib .inirb a ws
  | 0x1#4 => parseBlockIo .sinib .sinirb a ws
  | 0x2#4 => parseBlockIo .outib .otirb a ws
  | 0x3#4 => parseBlockIo .soutib .sotirb a ws
  | 0x4#4 => (parseWord ws).map fun port => .inpb a (.direct port)
  | 0x5#4 => (parseWord ws).map fun port => .sinb a port
  | 0x6#4 => (parseWord ws).map fun port => .outb (.direct port) a
  | 0x7#4 => (parseWord ws).map fun port => .soutb port a
  | 0x8#4 => parseBlockIo .indb .indrb a ws
  | 0x9#4 => parseBlockIo .sindb .sindrb a ws
  | 0xA#4 => parseBlockIo .outdb .otdrb a ws
  | 0xB#4 => parseBlockIo .soutdb .sotdrb a ws
  | _ => .bad

/-- Upper byte %3B: the word I/O group (R121). -/
def parseIo (a b : BitVec 4) (ws : List Word) : Parse Instr :=
  match b with
  | 0x0#4 => parseBlockIo .ini .inir a ws
  | 0x1#4 => parseBlockIo .sini .sinir a ws
  | 0x2#4 => parseBlockIo .outi .otir a ws
  | 0x3#4 => parseBlockIo .souti .sotir a ws
  | 0x4#4 => (parseWord ws).map fun port => .inp a (.direct port)
  | 0x5#4 => (parseWord ws).map fun port => .sin a port
  | 0x6#4 => (parseWord ws).map fun port => .out (.direct port) a
  | 0x7#4 => (parseWord ws).map fun port => .sout port a
  | 0x8#4 => parseBlockIo .ind .indr a ws
  | 0x9#4 => parseBlockIo .sind .sindr a ws
  | 0xA#4 => parseBlockIo .outd .otdr a ws
  | 0xB#4 => parseBlockIo .soutd .sotdr a ws
  | _ => .bad

/-- Upper byte %7B: IRET and the multi-micro instructions (R120, R130). -/
def parseControl (a b : BitVec 4) (ws : List Word) : Parse Instr :=
  if b = 0xD then .ok (.mreq a) ws
  else if a ≠ 0 then .bad
  else match b with
    | 0x0#4 => .ok .iret ws
    | 0x8#4 => .ok .mset ws
    | 0x9#4 => .ok .mres ws
    | 0xA#4 => .ok .mbit ws
    | _ => .bad

/-- Upper byte %7C: DI and EI; a 0 bit selects the kind (R112). -/
def parseDiEi (a b : BitVec 4) (ws : List Word) : Parse Instr :=
  if a ≠ 0 ∨ b.getLsbD 3 then .bad
  else if b.getLsbD 2 then .ok (.ei (!b.getLsbD 1) (!b.getLsbD 0)) ws
  else .ok (.di (!b.getLsbD 1) (!b.getLsbD 0)) ws

/-- Upper byte %7D: LDCTL; `w[3]` tells the write (R113). -/
def parseLdctl (a b : BitVec 4) (ws : List Word) : Parse Instr :=
  match CtlReg.ofCode (b.extractLsb' 0 3) with
  | none => .bad
  | some c => if b.getLsbD 3 then .ok (.ldctlWrite c a) ws else .ok (.ldctlRead a c) ws

/-- Upper byte %B1: sign extension (R120). -/
def parseExts (a b : BitVec 4) (ws : List Word) : Parse Instr :=
  match b with
  | 0x0#4 => .ok (.extsb a) ws
  | 0xA#4 => .ok (.exts a) ws
  | 0x7#4 => .ok (.extsl a) ws
  | _ => .bad

/-- The extended-instruction words (R133): the two upper bytes of the column `m`. -/
def parseEpa (op0 op1 op2 : EpaOp) (m : BitVec 2) (a b : BitVec 4) (ws : List Word) : Parse Instr :=
  .ok (.epa (if m = 0 then op0 else if m = 1 then op1 else op2) (a ++ b)) ws

/-- The four compact one-word formats (R91, R120): upper nibbles %C, %D, %E, %F. -/
def parseCompact (w : Word) (ws : List Word) : Parse Instr :=
  match w.extractLsb' 12 2 with
  | 0#2 => .ok (.ldbShort (w.extractLsb' 8 4) (w.extractLsb' 0 8)) ws
  | 1#2 => .ok (.calr (w.extractLsb' 0 12)) ws
  | 2#2 => .ok (.jr (.ofCode (w.extractLsb' 8 4)) (w.extractLsb' 0 8)) ws
  | _ => if w.getLsbD 7 then .ok (.djnz (w.extractLsb' 8 4) (w.extractLsb' 0 7)) ws
         else .ok (.dbjnz (w.extractLsb' 8 4) (w.extractLsb' 0 7)) ws

/-- The opcode map R120, for M = 0, 1, 2. -/
def parse (seg : Bool) (m : BitVec 2) (op : BitVec 6) (a b : BitVec 4) (ws : List Word) : Parse Instr :=
  match op with
  | 0x00#6 => (parseSrc seg .byte m a ws).map (.addb b)
  | 0x01#6 => (parseSrc seg .word m a ws).map (.add b)
  | 0x02#6 => (parseSrc seg .byte m a ws).map (.subb b)
  | 0x03#6 => (parseSrc seg .word m a ws).map (.sub b)
  | 0x04#6 => (parseSrc seg .byte m a ws).map (.orb b)
  | 0x05#6 => (parseSrc seg .word m a ws).map (.or b)
  | 0x06#6 => (parseSrc seg .byte m a ws).map (.andb b)
  | 0x07#6 => (parseSrc seg .word m a ws).map (.and b)
  | 0x08#6 => (parseSrc seg .byte m a ws).map (.xorb b)
  | 0x09#6 => (parseSrc seg .word m a ws).map (.xor b)
  | 0x0A#6 => (parseSrc seg .byte m a ws).map (.cpb b)
  | 0x0B#6 => (parseSrc seg .word m a ws).map (.cp b)
  | 0x0C#6 => parseOneOpB seg m a b ws
  | 0x0D#6 => parseOneOp seg m a b ws
  | 0x0E#6 => parseEpa .x0E .x4E .x8E m a b ws
  | 0x0F#6 => parseEpa .x0F .x4F .x8F m a b ws
  | 0x10#6 => (parseSrc seg .long m a ws).map (.cpl b)
  | 0x11#6 => (parseDst seg m b ws).map (.pushl a)
  | 0x12#6 => (parseSrc seg .long m a ws).map (.subl b)
  | 0x13#6 => (parseDst seg m b ws).map fun src => .push a src.toSrc
  | 0x14#6 => (parseSrc seg .long m a ws).map (.ldl b)
  | 0x15#6 => (parseDst seg m b ws).map fun dst => .popl dst a
  | 0x16#6 => (parseSrc seg .long m a ws).map (.addl b)
  | 0x17#6 => (parseDst seg m b ws).map fun dst => .pop dst a
  | 0x18#6 => (parseSrc seg .long m a ws).map (.multl b)
  | 0x19#6 => (parseSrc seg .word m a ws).map (.mult b)
  | 0x1A#6 => (parseSrc seg .long m a ws).map (.divl b)
  | 0x1B#6 => (parseSrc seg .word m a ws).map (.div b)
  | 0x1C#6 => parseLdm seg m a b ws
  | 0x1D#6 => (parseMem seg m a ws).map fun dst => .ldlStore dst b
  | 0x1E#6 => if m = 2 then (if a = 0 then .ok (.ret (.ofCode b)) ws else .bad)
              else (parseMem seg m a ws).map (.jp (.ofCode b))
  | 0x1F#6 => if b = 0 then (parseMem seg m a ws).map .call else .bad
  | 0x20#6 => (parseSrc seg .byte m a ws).map (.ldb b)
  | 0x21#6 => (parseSrc seg .word m a ws).map (.ld b)
  | 0x22#6 => parseBitB seg .resb .resbDyn m a b ws
  | 0x23#6 => parseBit seg .res .resDyn m a b ws
  | 0x24#6 => parseBitB seg .setb .setbDyn m a b ws
  | 0x25#6 => parseBit seg .set .setDyn m a b ws
  | 0x26#6 => parseBitB seg .bitb .bitbDyn m a b ws
  | 0x27#6 => parseBit seg .bit .bitDyn m a b ws
  | 0x28#6 => (parseDst seg m a ws).map fun dst => .incb dst b
  | 0x29#6 => (parseDst seg m a ws).map fun dst => .inc dst b
  | 0x2A#6 => (parseDst seg m a ws).map fun dst => .decb dst b
  | 0x2B#6 => (parseDst seg m a ws).map fun dst => .dec dst b
  | 0x2C#6 => (parseDst seg m a ws).map (.exb b)
  | 0x2D#6 => (parseDst seg m a ws).map (.ex b)
  | 0x2E#6 => if m = 2 then .ok (.tccb (.ofCode b) a) ws else (parseMem seg m a ws).map fun dst => .ldbStore dst b
  | 0x2F#6 => if m = 2 then .ok (.tcc (.ofCode b) a) ws else (parseMem seg m a ws).map fun dst => .ldStore dst b
  | 0x30#6 => if m = 2 then (if b = 0 then .ok (.dab a) ws else .bad)
              else parseBased (.ldbBased b) (.ldrb b) m a ws
  | 0x31#6 => if m = 2 then parseExts a b ws else parseBased (.ldBased b) (.ldr b) m a ws
  | 0x32#6 => if m = 2 then parseShiftB a b ws
              else parseBased (fun dst => .ldbStoreBased dst b) (fun disp => .ldrbStore disp b) m a ws
  | 0x33#6 => if m = 2 then parseShift a b ws
              else parseBased (fun dst => .ldStoreBased dst b) (fun disp => .ldrStore disp b) m a ws
  | 0x34#6 => if m = 2 then .ok (.adcb b a) ws else parseBased (.ldaBased b) (.ldar b) m a ws
  | 0x35#6 => if m = 2 then .ok (.adc b a) ws else parseBased (.ldlBased b) (.ldrl b) m a ws
  | 0x36#6 => if m = 2 then .ok (.sbcb b a) ws
              else if m = 1 then (parseAddr seg ws).map fun addr =>
                if a = 0 then .lda b addr else .ldaIndexed b addr a
              else .bad
  | 0x37#6 => if m = 2 then .ok (.sbc b a) ws
              else parseBased (fun dst => .ldlStoreBased dst b) (fun disp => .ldrlStore disp b) m a ws
  | 0x38#6 => if m = 2 then parseTranslate a b ws else .bad
  | 0x39#6 => if b = 0 then (parseMem seg m a ws).map .ldps else .bad
  | 0x3A#6 => if m = 2 then parseStringB a b ws
              else if m = 0 then parseIoB a b ws
              else if a = 0 ∧ b = 0 then .ok .halt ws else .bad
  | 0x3B#6 => if m = 2 then parseString a b ws
              else if m = 0 then parseIo a b ws
              else parseControl a b ws
  | 0x3C#6 => if m = 2 then .ok (.rrdb b a) ws
              else if m = 0 then .ok (.inpb b (.ind a)) ws
              else parseDiEi a b ws
  | 0x3D#6 => if m = 2 then .ok (.ldk a b) ws
              else if m = 0 then .ok (.inp b (.ind a)) ws
              else parseLdctl a b ws
  | 0x3E#6 => if m = 2 then .ok (.rldb b a) ws
              else if m = 0 then .ok (.outb (.ind a) b) ws
              else .bad
  | _ => if m = 2 then .bad
         else if m = 0 then .ok (.out (.ind a) b) ws
         else .ok (.sc (a ++ b)) ws

/-- Read one instruction from a list of words, in segmented (`seg`) or non-segmented mode (R134). -/
def decodeWords (seg : Bool) : List Word → Parse Instr
  | [] => .short
  | w :: ws =>
    (if fieldM w = 3 then parseCompact w ws else parse seg (fieldM w) (fieldOp w) (fieldA w) (fieldB w) ws).andThen
      fun i rest => if i.wf seg then .ok i rest else .bad

/-- Read one instruction from a list of bytes, in segmented (`seg`) or non-segmented mode (R90, R134). -/
def decode (seg : Bool) (bs : List Byte) : Parse Instr := decodeWords seg (wordsOfBytes bs)

/-! ## The encoder -/

/-- The address words (R97, R98). -/
def AddrField.words : AddrField → List Word
  | .near a => [a]
  | .short seg off => [0#1 ++ seg ++ off]
  | .long seg off => [1#1 ++ seg ++ 0#8, off]

/-- The immediate's words (R94, R95). -/
def immWords {W : Width} (v : BitVec W.bits) : List Word :=
  match W, v with
  | .byte, v => [(show BitVec 8 from v) ++ (show BitVec 8 from v)]
  | .word, v => [v]
  | .long, v => [(show BitVec 32 from v).extractLsb' 16 16, (show BitVec 32 from v).extractLsb' 0 16]

/-- The mode field of a memory operand (R91). -/
def Mem.mode : Mem → BitVec 2
  | .ir _ => 0
  | .da _ | .x _ _ => 1

/-- The register field of a memory operand (R91). -/
def Mem.field : Mem → BitVec 4
  | .ir p => p
  | .da _ => 0
  | .x _ i => i

/-- The later words of a memory operand (R90). -/
def Mem.words : Mem → List Word
  | .ir _ => []
  | .da a | .x a _ => a.words

/-- The mode field of a register or memory operand (R91). -/
def Dst.mode : Dst → BitVec 2
  | .reg _ => 2
  | .mem m => m.mode

/-- The register field of a register or memory operand (R91). -/
def Dst.field : Dst → BitVec 4
  | .reg k => k
  | .mem m => m.field

/-- The later words of a register or memory operand (R90). -/
def Dst.words : Dst → List Word
  | .reg _ => []
  | .mem m => m.words

/-- The mode field of a source operand (R91). -/
def Src.mode {W : Width} : Src W → BitVec 2
  | .reg _ => 2
  | .imm _ => 0
  | .mem m => m.mode

/-- The register field of a source operand (R91). -/
def Src.field {W : Width} : Src W → BitVec 4
  | .reg k => k
  | .imm _ => 0
  | .mem m => m.field

/-- The later words of a source operand (R90). -/
def Src.words {W : Width} : Src W → List Word
  | .reg _ => []
  | .imm v => immWords v
  | .mem m => m.words

/-- "src: R, IM, IR, DA, X" with the register in field B (R92). -/
def encSrc {W : Width} (op : BitVec 6) (d : RegNo) (src : Src W) : List Word :=
  firstWord src.mode op src.field d :: src.words

/-- A register or memory operand in field A, `b` in field B (R92). -/
def encDst (op : BitVec 6) (dst : Dst) (b : BitVec 4) : List Word := firstWord dst.mode op dst.field b :: dst.words

/-- A memory operand in field A, `b` in field B (R92). -/
def encMem (op : BitVec 6) (dst : Mem) (b : BitVec 4) : List Word := firstWord dst.mode op dst.field b :: dst.words

/-- A based operand, `b` in field B (R120). -/
def encBased (op : BitVec 6) (src : Based) (b : BitVec 4) : List Word :=
  match src with
  | .ba p disp => [firstWord 0 op p b, disp]
  | .bx p i => [firstWord 1 op p b, secondWord i 0 0]

/-- One word, register form (R91). -/
def encReg (op : BitVec 6) (a b : BitVec 4) : List Word := [firstWord 2 op a b]

/-- A register form with a second opcode word (R122 to R124). -/
def encReg2 (op : BitVec 6) (a b r d t : BitVec 4) : List Word := [firstWord 2 op a b, secondWord r d t]

/-- A dynamic bit instruction `00.. 0000 ssss`, `0000 dddd 0000 0000` (R120). -/
def encDyn (op : BitVec 6) (d s : RegNo) : List Word := [firstWord 0 op 0 s, secondWord d 0 0]

/-- A block I/O instruction (R121). -/
def encIo (op : BitVec 6) (b : BitVec 4) (d s r t : BitVec 4) : List Word := [firstWord 0 op s b, secondWord r d t]

/-- An I/O instruction with a port operand: `k` is the register in field A or B (R120, R121). -/
def encPort (indOp directOp : BitVec 6) (b : BitVec 4) (k : RegNo) : Port → List Word
  | .ind p => [firstWord 0 indOp p k]
  | .direct port => [firstWord 0 directOp k b, port]

/-- The count word of a right shift of a byte: the high byte is 0 (R114). -/
def rightCountB (n : Nat) : Word := 0#8 ++ (-(BitVec.ofNat 8 n))

/-- The count word of a right shift of a word or long (R114). -/
def rightCount (n : Nat) : Word := -(BitVec.ofNat 16 n)

/-- Field B of a rotate: the group bits and count minus one in `w[1]` (R96, R124). -/
def rotateField (base : BitVec 4) (twice : Bool) : BitVec 4 := if twice then base ||| 2 else base

/-- A 4-bit field from four bits, most significant first. -/
def nibble (b3 b2 b1 b0 : Bool) : BitVec 4 := BitVec.ofBool b3 ++ BitVec.ofBool b2 ++ BitVec.ofBool b1 ++ BitVec.ofBool b0

/-- The mode field of an extended instruction (R133). -/
def EpaOp.mode : EpaOp → BitVec 2
  | .x0E | .x0F => 0
  | .x4E | .x4F => 1
  | .x8E | .x8F => 2

/-- The opcode field of an extended instruction (R133). -/
def EpaOp.op : EpaOp → BitVec 6
  | .x0E | .x4E | .x8E => 0x0E
  | .x0F | .x4F | .x8F => 0x0F

/-- The words of an instruction, written from the encodings of R120 to R124. -/
def encode : Instr → List Word
  | .clrb dst => encDst 0x0C dst 8
  | .clr dst => encDst 0x0D dst 8
  | .exb d src => encDst 0x2C src d
  | .ex d src => encDst 0x2D src d
  | .ldb d src => encSrc 0x20 d src
  | .ldbBased d src => encBased 0x30 src d
  | .ldbStore dst s => encMem 0x2E dst s
  | .ldbStoreBased dst s => encBased 0x32 dst s
  | .ldbStoreImm dst v => encMem 0x0C dst 5 ++ immWords (W := .byte) v
  | .ldbShort d v => [compactWord 0 d v]
  | .ld d src => encSrc 0x21 d src
  | .ldBased d src => encBased 0x31 src d
  | .ldStore dst s => encMem 0x2F dst s
  | .ldStoreBased dst s => encBased 0x33 dst s
  | .ldStoreImm dst v => encMem 0x0D dst 5 ++ immWords (W := .word) v
  | .ldl d src => encSrc 0x14 d src
  | .ldlBased d src => encBased 0x35 src d
  | .ldlStore dst s => encMem 0x1D dst s
  | .ldlStoreBased dst s => encBased 0x37 dst s
  | .lda d addr => firstWord 1 0x36 0 d :: addr.words
  | .ldaIndexed d addr x => firstWord 1 0x36 x d :: addr.words
  | .ldaBased d src => encBased 0x34 src d
  | .ldar d disp => [firstWord 0 0x34 0 d, disp]
  | .ldk d n => encReg 0x3D d n
  | .ldmLoad d src n => firstWord src.mode 0x1C src.field 1 :: secondWord d 0 n :: src.words
  | .ldmStore dst s n => firstWord dst.mode 0x1C dst.field 9 :: secondWord s 0 n :: dst.words
  | .ldrb d disp => [firstWord 0 0x30 0 d, disp]
  | .ldrbStore disp s => [firstWord 0 0x32 0 s, disp]
  | .ldr d disp => [firstWord 0 0x31 0 d, disp]
  | .ldrStore disp s => [firstWord 0 0x33 0 s, disp]
  | .ldrl d disp => [firstWord 0 0x35 0 d, disp]
  | .ldrlStore disp s => [firstWord 0 0x37 0 s, disp]
  | .pop dst s => firstWord dst.mode 0x17 s dst.field :: dst.words
  | .popl dst s => firstWord dst.mode 0x15 s dst.field :: dst.words
  | .push d (.imm v) => firstWord 0 0x0D d 9 :: immWords (W := .word) v
  | .push d src => firstWord src.mode 0x13 d src.field :: src.words
  | .pushl d src => firstWord src.mode 0x11 d src.field :: src.words
  | .adcb d s => encReg 0x34 s d
  | .adc d s => encReg 0x35 s d
  | .sbcb d s => encReg 0x36 s d
  | .sbc d s => encReg 0x37 s d
  | .addb d src => encSrc 0x00 d src
  | .add d src => encSrc 0x01 d src
  | .addl d src => encSrc 0x16 d src
  | .subb d src => encSrc 0x02 d src
  | .sub d src => encSrc 0x03 d src
  | .subl d src => encSrc 0x12 d src
  | .cpb d src => encSrc 0x0A d src
  | .cp d src => encSrc 0x0B d src
  | .cpl d src => encSrc 0x10 d src
  | .cpbImm dst v => encMem 0x0C dst 1 ++ immWords (W := .byte) v
  | .cpImm dst v => encMem 0x0D dst 1 ++ immWords (W := .word) v
  | .dab d => encReg 0x30 d 0
  | .incb dst n => encDst 0x28 dst n
  | .inc dst n => encDst 0x29 dst n
  | .decb dst n => encDst 0x2A dst n
  | .dec dst n => encDst 0x2B dst n
  | .mult d src => encSrc 0x19 d src
  | .multl d src => encSrc 0x18 d src
  | .div d src => encSrc 0x1B d src
  | .divl d src => encSrc 0x1A d src
  | .extsb d => encReg 0x31 d 0
  | .exts d => encReg 0x31 d 0xA
  | .extsl d => encReg 0x31 d 7
  | .negb dst => encDst 0x0C dst 2
  | .neg dst => encDst 0x0D dst 2
  | .andb d src => encSrc 0x06 d src
  | .and d src => encSrc 0x07 d src
  | .orb d src => encSrc 0x04 d src
  | .or d src => encSrc 0x05 d src
  | .xorb d src => encSrc 0x08 d src
  | .xor d src => encSrc 0x09 d src
  | .comb dst => encDst 0x0C dst 0
  | .com dst => encDst 0x0D dst 0
  | .testb dst => encDst 0x0C dst 4
  | .test dst => encDst 0x0D dst 4
  | .testl dst => encDst 0x1C dst 8
  | .call dst => encMem 0x1F dst 0
  | .calr p => [0b1101#4 ++ p]
  | .dbjnz r p => [compactWord 3 r (0#1 ++ p)]
  | .djnz r p => [compactWord 3 r (1#1 ++ p)]
  | .iret => [firstWord 1 0x3B 0 0]
  | .jp cc dst => encMem 0x1E dst cc.code
  | .jr cc p => [compactWord 2 cc.code p]
  | .ret cc => encReg 0x1E 0 cc.code
  | .sc v => [firstWord 1 0x3F (v.extractLsb' 4 4) (v.extractLsb' 0 4)]
  | .bitb dst n => encDst 0x26 dst (0#1 ++ n)
  | .bitbDyn d s => encDyn 0x26 d s
  | .bit dst n => encDst 0x27 dst n
  | .bitDyn d s => encDyn 0x27 d s
  | .resb dst n => encDst 0x22 dst (0#1 ++ n)
  | .resbDyn d s => encDyn 0x22 d s
  | .res dst n => encDst 0x23 dst n
  | .resDyn d s => encDyn 0x23 d s
  | .setb dst n => encDst 0x24 dst (0#1 ++ n)
  | .setbDyn d s => encDyn 0x24 d s
  | .set dst n => encDst 0x25 dst n
  | .setDyn d s => encDyn 0x25 d s
  | .tccb cc d => encReg 0x2E d cc.code
  | .tcc cc d => encReg 0x2F d cc.code
  | .tsetb dst => encDst 0x0C dst 6
  | .tset dst => encDst 0x0D dst 6
  | .rlb d twice => encReg 0x32 d (rotateField 0x0 twice)
  | .rl d twice => encReg 0x33 d (rotateField 0x0 twice)
  | .rlcb d twice => encReg 0x32 d (rotateField 0x8 twice)
  | .rlc d twice => encReg 0x33 d (rotateField 0x8 twice)
  | .rrb d twice => encReg 0x32 d (rotateField 0x4 twice)
  | .rr d twice => encReg 0x33 d (rotateField 0x4 twice)
  | .rrcb d twice => encReg 0x32 d (rotateField 0xC twice)
  | .rrc d twice => encReg 0x33 d (rotateField 0xC twice)
  | .rldb l s => encReg 0x3E s l
  | .rrdb l s => encReg 0x3C s l
  | .sdab d s => encReg2 0x32 d 0xB s 0 0
  | .sda d s => encReg2 0x33 d 0xB s 0 0
  | .sdal d s => encReg2 0x33 d 0xF s 0 0
  | .sdlb d s => encReg2 0x32 d 0x3 s 0 0
  | .sdl d s => encReg2 0x33 d 0x3 s 0 0
  | .sdll d s => encReg2 0x33 d 0x7 s 0 0
  | .slab d n => [firstWord 2 0x32 d 0x9, BitVec.ofNat 16 n]
  | .sla d n => [firstWord 2 0x33 d 0x9, BitVec.ofNat 16 n]
  | .slal d n => [firstWord 2 0x33 d 0xD, BitVec.ofNat 16 n]
  | .sllb d n => [firstWord 2 0x32 d 0x1, BitVec.ofNat 16 n]
  | .sll d n => [firstWord 2 0x33 d 0x1, BitVec.ofNat 16 n]
  | .slll d n => [firstWord 2 0x33 d 0x5, BitVec.ofNat 16 n]
  | .srab d n => [firstWord 2 0x32 d 0x9, rightCountB n]
  | .sra d n => [firstWord 2 0x33 d 0x9, rightCount n]
  | .sral d n => [firstWord 2 0x33 d 0xD, rightCount n]
  | .srlb d n => [firstWord 2 0x32 d 0x1, rightCountB n]
  | .srl d n => [firstWord 2 0x33 d 0x1, rightCount n]
  | .srll d n => [firstWord 2 0x33 d 0x5, rightCount n]
  | .cpdb d s r cc => encReg2 0x3A s 0x8 r d cc.code
  | .cpd d s r cc => encReg2 0x3B s 0x8 r d cc.code
  | .cpdrb d s r cc => encReg2 0x3A s 0xC r d cc.code
  | .cpdr d s r cc => encReg2 0x3B s 0xC r d cc.code
  | .cpib d s r cc => encReg2 0x3A s 0x0 r d cc.code
  | .cpi d s r cc => encReg2 0x3B s 0x0 r d cc.code
  | .cpirb d s r cc => encReg2 0x3A s 0x4 r d cc.code
  | .cpir d s r cc => encReg2 0x3B s 0x4 r d cc.code
  | .cpsdb d s r cc => encReg2 0x3A s 0xA r d cc.code
  | .cpsd d s r cc => encReg2 0x3B s 0xA r d cc.code
  | .cpsdrb d s r cc => encReg2 0x3A s 0xE r d cc.code
  | .cpsdr d s r cc => encReg2 0x3B s 0xE r d cc.code
  | .cpsib d s r cc => encReg2 0x3A s 0x2 r d cc.code
  | .cpsi d s r cc => encReg2 0x3B s 0x2 r d cc.code
  | .cpsirb d s r cc => encReg2 0x3A s 0x6 r d cc.code
  | .cpsir d s r cc => encReg2 0x3B s 0x6 r d cc.code
  | .lddb d s r => encReg2 0x3A s 0x9 r d 8
  | .ldd d s r => encReg2 0x3B s 0x9 r d 8
  | .lddrb d s r => encReg2 0x3A s 0x9 r d 0
  | .lddr d s r => encReg2 0x3B s 0x9 r d 0
  | .ldib d s r => encReg2 0x3A s 0x1 r d 8
  | .ldi d s r => encReg2 0x3B s 0x1 r d 8
  | .ldirb d s r => encReg2 0x3A s 0x1 r d 0
  | .ldir d s r => encReg2 0x3B s 0x1 r d 0
  | .trdb d s r => encReg2 0x38 d 0x8 r s 0
  | .trdrb d s r => encReg2 0x38 d 0xC r s 0
  | .trib d s r => encReg2 0x38 d 0x0 r s 0
  | .trirb d s r => encReg2 0x38 d 0x4 r s 0
  | .trtdb s t r => encReg2 0x38 s 0xA r t 0
  | .trtdrb s t r => encReg2 0x38 s 0xE r t 0xE
  | .trtib s t r => encReg2 0x38 s 0x2 r t 0
  | .trtirb s t r => encReg2 0x38 s 0x6 r t 0xE
  | .inpb d port => encPort 0x3C 0x3A 4 d port
  | .inp d port => encPort 0x3D 0x3B 4 d port
  | .outb port s => encPort 0x3E 0x3A 6 s port
  | .out port s => encPort 0x3F 0x3B 6 s port
  | .sinb d port => [firstWord 0 0x3A d 5, port]
  | .sin d port => [firstWord 0 0x3B d 5, port]
  | .soutb port s => [firstWord 0 0x3A s 7, port]
  | .sout port s => [firstWord 0 0x3B s 7, port]
  | .indb d s r => encIo 0x3A 0x8 d s r 8
  | .ind d s r => encIo 0x3B 0x8 d s r 8
  | .indrb d s r => encIo 0x3A 0x8 d s r 0
  | .indr d s r => encIo 0x3B 0x8 d s r 0
  | .inib d s r => encIo 0x3A 0x0 d s r 8
  | .ini d s r => encIo 0x3B 0x0 d s r 8
  | .inirb d s r => encIo 0x3A 0x0 d s r 0
  | .inir d s r => encIo 0x3B 0x0 d s r 0
  | .otdrb d s r => encIo 0x3A 0xA d s r 0
  | .otdr d s r => encIo 0x3B 0xA d s r 0
  | .otirb d s r => encIo 0x3A 0x2 d s r 0
  | .otir d s r => encIo 0x3B 0x2 d s r 0
  | .outdb d s r => encIo 0x3A 0xA d s r 8
  | .outd d s r => encIo 0x3B 0xA d s r 8
  | .outib d s r => encIo 0x3A 0x2 d s r 8
  | .outi d s r => encIo 0x3B 0x2 d s r 8
  | .sindb d s r => encIo 0x3A 0x9 d s r 8
  | .sind d s r => encIo 0x3B 0x9 d s r 8
  | .sindrb d s r => encIo 0x3A 0x9 d s r 0
  | .sindr d s r => encIo 0x3B 0x9 d s r 0
  | .sinib d s r => encIo 0x3A 0x1 d s r 8
  | .sini d s r => encIo 0x3B 0x1 d s r 8
  | .sinirb d s r => encIo 0x3A 0x1 d s r 0
  | .sinir d s r => encIo 0x3B 0x1 d s r 0
  | .soutdb d s r => encIo 0x3A 0xB d s r 8
  | .soutd d s r => encIo 0x3B 0xB d s r 8
  | .soutib d s r => encIo 0x3A 0x3 d s r 8
  | .souti d s r => encIo 0x3B 0x3 d s r 8
  | .sotdrb d s r => encIo 0x3A 0xB d s r 0
  | .sotdr d s r => encIo 0x3B 0xB d s r 0
  | .sotirb d s r => encIo 0x3A 0x3 d s r 0
  | .sotir d s r => encIo 0x3B 0x3 d s r 0
  | .comflg mask => encReg 0x0D mask 5
  | .di vi nvi => [firstWord 1 0x3C 0 (nibble false false (!vi) (!nvi))]
  | .ei vi nvi => [firstWord 1 0x3C 0 (nibble false true (!vi) (!nvi))]
  | .halt => [firstWord 1 0x3A 0 0]
  | .ldctlRead d c => [firstWord 1 0x3D d (0#1 ++ c.code)]
  | .ldctlWrite c s => [firstWord 1 0x3D s (1#1 ++ c.code)]
  | .ldctlbRead d => encReg 0x0C d 1
  | .ldctlbWrite s => encReg 0x0C s 9
  | .ldps src => encMem 0x39 src 0
  | .mbit => [firstWord 1 0x3B 0 0xA]
  | .mreq d => [firstWord 1 0x3B d 0xD]
  | .mres => [firstWord 1 0x3B 0 9]
  | .mset => [firstWord 1 0x3B 0 8]
  | .nop => encReg 0x0D 0 7
  | .resflg mask => encReg 0x0D mask 3
  | .setflg mask => encReg 0x0D mask 1
  | .epa op x => [firstWord op.mode op.op (x.extractLsb' 4 4) (x.extractLsb' 0 4)]

/-- The bytes of an instruction as the hardware stores them. -/
def encodeBytes (i : Instr) : List Byte := bytesOfWords (encode i)

/-! ## The host's words -/

/-- The first five words of an instruction whose first `nbits` bits are those of `w`, the first word the least
significant; the bits above are 0. -/
def tableWords (nbits w : Nat) : List Word :=
  [0, 1, 2, 3, 4].map fun k => BitVec.ofNat 16 ((w % 2 ^ nbits) >>> (16 * k))

/-- The instruction the decoder reads, in the non-segmented mode of the Z8002, from a word numbered as the opcode
table numbers it. Log 38. -/
def decodeTableWord (nbits w : Nat) : Option Instr :=
  match decode false (bytesOfWords (tableWords nbits w)) with
  | .ok i _ => some i
  | .short | .bad => none

end Sys2Proof
end

