-- ==== Sys2Proof/Config.lean ====
section
/-! DEFINITION. What an implementation fixes (the parameters of 00_scope.md R8 and 92_eei_decisions.md) and the
free values (93_implementation_defined.md U1).

The parameters are plain data, held in `State.par` and changed by no step, so that every statement holds for both
family members and for every choice the spec leaves open. DESIGN CHOICE, log 1, 7, 17, 18, 19, 25. -/

namespace Sys2Proof

/-- The family member (00_scope.md R2, 92_eei_decisions.md D1). -/
inductive Variant where
  | z8001
  | z8002
  deriving DecidableEq, Repr

/-- What a 1 written to a reserved FCW bit reads back as (U3, parameter `FCW_RESERVED`). Log 17. -/
inductive FcwReserved where
  | readsBackZero
  | readsBackWritten
  deriving DecidableEq, Repr

/-- The PC that the privileged-instruction and extended-instruction traps save (D25, U16, parameter
`TRAP_PC_RULE`). Log 18. -/
inductive TrapPcRule where
  | firstWordPlusTwo
  | nextInstruction
  deriving DecidableEq, Repr

/-- The number of instructions between the write of an interrupt-enable bit and the acceptance of a request it
enables (D23, U15, parameter `EI_DELAY` in {0, 1}). Log 19. -/
inductive EiDelay where
  | zero
  | one
  deriving DecidableEq, Repr

/-- A run of admitted memory addresses (D5, parameter `MEM_ADMITTED`): `size` bytes from `base`. Log 7. -/
structure Region where
  base : Nat
  size : Nat
  deriving DecidableEq, Repr

/-- The implementation parameters (00_scope.md R8). -/
structure Params where
  variant     : Variant
  fcwReserved : FcwReserved
  trapPcRule  : TrapPcRule
  eiDelay     : EiDelay
  /-- An extended processing unit is attached (D22, parameter `EPA_PRESENT`). Log 25. -/
  epaPresent  : Bool
  admitted    : List Region
  deriving DecidableEq, Repr

/-- The parameters of `State.reset`: the spec's defaults, and the Z8002, for which its vectors are stated
(95_test_vectors.md, Conventions). DESIGN CHOICE, log 1, 7, 25. -/
def Params.default : Params where
  variant     := .z8002
  fcwReserved := .readsBackZero
  trapPcRule  := .firstWordPlusTwo
  eiDelay     := .zero
  epaPresent  := false
  admitted    := [⟨0, 8388608⟩]

/-- A free value of `w` bits, the `n`-th drawn in a run: nothing constrains it (U1, treatment "any value"). Log 11. -/
opaque Config.freeValue (w : Nat) (n : Nat) : BitVec w

/-- A free bit, the `n`-th value drawn in a run: nothing constrains it (U1). Log 11. -/
opaque Config.freeBit (n : Nat) : Bool

end Sys2Proof
end

