-- ==== Sys2Proof/Machine/State.lean ====
section
/-! DEFINITION. The state of the machine as plain data, the reasons a step can stop, and the state after reset
(10_state.md; INVENTORY.md "State"). -/

namespace Sys2Proof.Machine

/-- A logical address: a 7-bit segment number and a 16-bit offset (20_memory.md R71, R72). A non-segmented address
carries the PC's segment (R74), which is 0 on a Z8002. -/
structure Addr where
  seg : BitVec 7
  off : Word
  deriving DecidableEq, Repr

/-- The flag and control word, bit by bit (10_state.md R30). `pv` is the one bit of P and V (R31); `rsvHi` and
`rsvLo` are the reserved bits 10..8 and 1..0. -/
structure Fcw where
  seg   : Bool
  sys   : Bool
  epa   : Bool
  vie   : Bool
  nvie  : Bool
  rsvHi : BitVec 3
  c     : Bool
  z     : Bool
  s     : Bool
  pv    : Bool
  da    : Bool
  h     : Bool
  rsvLo : BitVec 2
  deriving DecidableEq, Repr

/-- The level of an active-low pin (10_state.md R38): low is active, high is inactive. -/
inductive Pin where
  | low
  | high
  deriving DecidableEq, Repr

/-- The two I/O spaces (20_memory.md R61). -/
inductive IoSpace where
  | normal
  | special
  deriving DecidableEq, Repr

/-- One I/O access as the environment sees it (20_memory.md R69). A byte is in the low half of `value`. -/
structure IoAccess where
  space : IoSpace
  port  : Word
  write : Bool
  width : Width
  value : Word
  deriving DecidableEq, Repr

/-- What the environment presents at one instruction boundary (60_exceptions.md R336): a reset request, an edge on
NMI, and the levels of SEGT, VI and NVI, each with the identifier word supplied at acknowledge (R346). -/
structure Request where
  reset : Bool
  nmi   : Option Word
  segt  : Option Word
  vi    : Option Word
  nvi   : Option Word
  deriving DecidableEq, Repr

/-- Memory: the bytes that hold a value, by strictly rising address (20_memory.md R60, R62). An address that is not
listed holds no value (10_state.md R41). Log 5, 8. -/
abbrev Memory := List Host.Cell

/-- The canonical form: addresses strictly rising. An unlisted address reads as no value, so every entry differs from
what an unlisted address reads as. -/
abbrev Memory.wf (m : Memory) : Prop := m.Pairwise fun x y => x.1 < y.1

/-- The whole state: 10_state.md, the inputs and outputs of the environment, and the model's own fields. -/
structure State where
  /-- The implementation parameters (00_scope.md R8); no step changes them. -/
  par      : Params
  /-- R0 to R15, with the system-mode copies of R14 and R15 (R20, R26). -/
  regs     : Vector Word 16
  /-- The normal-mode copy of R14 (Z8001): control register NSPSEG (R26, R35). -/
  nspSeg   : Word
  /-- The normal-mode copy of R15: control register NSPOFF (R26, R35). -/
  nspOff   : Word
  /-- The program counter (R27). -/
  pc       : Addr
  /-- The flag and control word (R30). -/
  fcw      : Fcw
  /-- PSAPSEG (Z8001) (R34). -/
  psapSeg  : Word
  /-- PSAPOFF (R34). -/
  psapOff  : Word
  /-- REFRESH (R36). -/
  refresh  : Word
  /-- The MO output pin (R38). -/
  mo       : Pin
  /-- Halted (R39(a)). -/
  halted   : Bool
  /-- RESET has been received: the reset transition is the next step (70_reset_and_hazards.md R380, R381). -/
  resetReq : Bool
  /-- The NMI edge latch, with its identifier word (60_exceptions.md R335). -/
  nmi      : Option Word
  /-- Memory (20_memory.md R60). -/
  mem      : Memory
  /-- Every I/O access so far, oldest first (20_memory.md R69). -/
  ioLog    : List IoAccess
  /-- What the environment presents at the coming boundaries, next first (60_exceptions.md R336). Log 20. -/
  events   : List Request
  /-- The answers of the devices to the coming I/O reads, next first (48_io.md R270). Log 21. -/
  ioIn     : List Word
  /-- The coming samples of the MI pin, next first (10_state.md R38). Log 22. -/
  miIn     : List Pin
  /-- How many free values have been drawn: the model's own field. Log 11. -/
  free     : Nat
  deriving DecidableEq, Repr

/-- Why the machine stops where the spec gives no successor. -/
inductive Fault where
  /-- Raised by every memory read and instruction fetch of a byte that nothing has written (10_state.md R41, U17).
  Safe: the model stops where the hardware returns some byte. -/
  | unwrittenMemory
  /-- Raised by every memory access outside `MEM_ADMITTED` (20_memory.md R70, U19). Safe: the spec refuses it. -/
  | absentMemory
  /-- Raised by every word or long access at an odd address (20_memory.md R65, U18). Safe: the spec refuses it. -/
  | oddAddress
  /-- Raised by the fetch at an odd program counter (20_memory.md R66, U18). Safe: the spec refuses it. -/
  | oddPc
  /-- Raised by an instruction that stores into the word right after itself (20_memory.md R82, U20). Safe: the spec
  refuses it. -/
  | storeIntoNextWord
  deriving DecidableEq, Repr

/-- Why there is no meaning. -/
inductive Refusal where
  /-- Raised by the dispatcher for an instruction that has no meaning yet. Safe. -/
  | notModelled (mnemonic : String)
  /-- Raised by the step when the words at the PC are no defined encoding (30_encoding.md R130, U2). Safe. -/
  | undefinedEncoding
  /-- Raised by a block, translate or block-I/O instruction whose registers overlap (46_block_string.md R238, U21).
  Safe. -/
  | registerOverlap
  /-- Raised by LDM loading the register its address uses (40_load_exchange.md R147, U8). Safe. -/
  | ldmOverlap
  /-- Raised by PUSH or POP whose operand overlaps the stack pointer used (40_load_exchange.md R149, R150, U9). Safe. -/
  | stackPointerOverlap
  /-- Raised by RLDB or RRDB with one register as link and source (45_rotate_shift.md R218, R221, U12). Safe. -/
  | sameDigitRegister
  /-- Raised by LDCTL naming a control register the variant lacks (49_cpu_control.md R304, U14). Safe. -/
  | noSuchControlRegister
  /-- Raised by an extended-instruction word with FCW.EPA = 1 where no extended processing unit is attached
  (30_encoding.md R133, U22). Safe. -/
  | extendedInstruction
  /-- Raised by an extended-instruction word with FCW.EPA = 1 where an extended processing unit is attached: the word is
  handed to the unit, of which the spec says nothing more (30_encoding.md R133, D22, 00_scope.md R7(b)). Safe. -/
  | extendedUnit
  deriving DecidableEq, Repr

/-- The three outcomes, over any result. -/
abbrev Res (α : Type) := Host.Outcome α Fault Refusal

/-- The FCW before the reset transition loads it: %4000, system mode (95_test_vectors.md, Conventions). DESIGN CHOICE,
log 4. -/
def Fcw.initial : Fcw where
  seg := false
  sys := true
  epa := false
  vie := false
  nvie := false
  rsvHi := 0
  c := false
  z := false
  s := false
  pv := false
  da := false
  h := false
  rsvLo := 0

/-- The machine right after reset has been requested: MO high, not halted, no NMI latched, REFRESH[15] = 0 (10_state.md
R40), and the reset transition due as the first step (R381, R383). The registers the spec gives no value are 0
(log 2, 3); FCW and PC have placeholders until the transition loads them (log 4). -/
def State.reset : State where
  par := Params.default
  regs := Vector.replicate 16 0
  nspSeg := 0
  nspOff := 0
  pc := ⟨0, 0⟩
  fcw := Fcw.initial
  psapSeg := 0
  psapOff := 0
  refresh := 0
  mo := .high
  halted := false
  resetReq := true
  nmi := none
  mem := []
  ioLog := []
  events := []
  ioIn := []
  miIn := []
  free := 0

end Sys2Proof.Machine
end

