-- ==== Sys2Proof/Machine/Flags.lean ====
section
/-! DEFINITION. The FCW as a word, the condition codes, and every flag computation (10_state.md R30, R31, R37;
30_encoding.md R110; 41_arithmetic.md R160; 42_logical.md R180; 45_rotate_shift.md R213, R215). -/

namespace Sys2Proof.Machine

/-! ## The FCW and FLAGS as bits -/

/-- The FLAGS byte, FCW bits 7..0 (R37). -/
def Fcw.flags (f : Fcw) : Byte :=
  BitVec.ofBool f.c ++ BitVec.ofBool f.z ++ BitVec.ofBool f.s ++ BitVec.ofBool f.pv ++ BitVec.ofBool f.da
    ++ BitVec.ofBool f.h ++ f.rsvLo

/-- The upper byte of the FCW (R30). -/
def Fcw.control (f : Fcw) : Byte :=
  BitVec.ofBool f.seg ++ BitVec.ofBool f.sys ++ BitVec.ofBool f.epa ++ BitVec.ofBool f.vie ++ BitVec.ofBool f.nvie
    ++ f.rsvHi

/-- The FCW as a word (R30). -/
def Fcw.toWord (f : Fcw) : Word := f.control ++ f.flags

/-- The FCW a word loads (R30). The reserved bits, and SEG on a Z8002, read back as the parameter `FCW_RESERVED`
says (U3, log 17). -/
def Fcw.ofWord (par : Params) (w : Word) : Fcw where
  seg   := w.getLsbD 15 && (par.variant == .z8001 || par.fcwReserved == .readsBackWritten)
  sys   := w.getLsbD 14
  epa   := w.getLsbD 13
  vie   := w.getLsbD 12
  nvie  := w.getLsbD 11
  rsvHi := if par.fcwReserved = .readsBackWritten then w.extractLsb' 8 3 else 0
  c     := w.getLsbD 7
  z     := w.getLsbD 6
  s     := w.getLsbD 5
  pv    := w.getLsbD 4
  da    := w.getLsbD 3
  h     := w.getLsbD 2
  rsvLo := if par.fcwReserved = .readsBackWritten then w.extractLsb' 0 2 else 0

/-- The six flags a byte loads; bits 1..0 of the byte are ignored (49_cpu_control.md R305). -/
def Fcw.withFlags (f : Fcw) (b : Byte) : Fcw :=
  { f with c := b.getLsbD 7, z := b.getLsbD 6, s := b.getLsbD 5, pv := b.getLsbD 4, da := b.getLsbD 3,
           h := b.getLsbD 2 }

/-- Change C, Z, S, P/V where the mask has a 1 (R111): bit 3 is C, bit 2 Z, bit 1 S, bit 0 P/V. -/
def Fcw.mapMasked (f : Fcw) (mask : BitVec 4) (g : Bool → Bool) : Fcw :=
  { f with c := if mask.getLsbD 3 then g f.c else f.c
           z := if mask.getLsbD 2 then g f.z else f.z
           s := if mask.getLsbD 1 then g f.s else f.s
           pv := if mask.getLsbD 0 then g f.pv else f.pv }

/-! ## Condition codes -/

/-- `cond(cc)` (R110). -/
def condHolds (f : Fcw) : Cond → Bool
  | .f => false
  | .t => true
  | .z => f.z
  | .nz => !f.z
  | .c => f.c
  | .nc => !f.c
  | .pl => !f.s
  | .mi => f.s
  | .ov => f.pv
  | .nov => !f.pv
  | .ge => !(f.s ^^ f.pv)
  | .lt => f.s ^^ f.pv
  | .gt => !(f.z || (f.s ^^ f.pv))
  | .le => f.z || (f.s ^^ f.pv)
  | .ugt => !f.c && !f.z
  | .ule => f.c || f.z

/-! ## Results with their flags -/

/-- A result and the outputs `Cout`, `Vout`, `Hout` of R160. -/
structure AluResult (w : Nat) where
  r : BitVec w
  c : Bool
  v : Bool
  h : Bool
  deriving DecidableEq, Repr

/-- `AddW(W, a, b, c)` (R160). -/
def addW {w : Nat} (a b : BitVec w) (carry : Bool) : AluResult w :=
  let sum := a.toNat + b.toNat + carry.toNat
  let r := BitVec.ofNat w sum
  { r := r
    c := decide (2 ^ w ≤ sum)
    v := a.msb == b.msb && r.msb != a.msb
    h := decide (16 ≤ a.toNat % 16 + b.toNat % 16 + carry.toNat) }

/-- `SubW(W, a, b, c)`: `a - b - c`; C is 1 on borrow (R160). -/
def subW {w : Nat} (a b : BitVec w) (borrow : Bool) : AluResult w :=
  let diff : Int := (a.toNat : Int) - b.toNat - borrow.toNat
  let r := BitVec.ofInt w diff
  { r := r
    c := decide (diff < 0)
    v := a.msb != b.msb && r.msb != a.msb
    h := decide (((a.toNat % 16 : Nat) : Int) - (b.toNat % 16 : Nat) - borrow.toNat < 0) }

/-- `SetZS(W, r)` (R160). -/
def Fcw.setZS {w : Nat} (f : Fcw) (r : BitVec w) : Fcw := { f with z := r == 0, s := r.msb }

/-- `C <- c; SetZS(W, r); V <- v` (R161 to R163, R171, R172). -/
def Fcw.arith {w : Nat} (f : Fcw) (a : AluResult w) : Fcw := { f.setZS a.r with c := a.c, pv := a.v }

/-- The byte additions and subtractions also write DA and H (R160). -/
def Fcw.arithByte {w : Nat} (f : Fcw) (da : Bool) (a : AluResult w) : Fcw := { f.arith a with da := da, h := a.h }

/-- `SetZS(W, r); V <- v`: INC and DEC leave C (R165, R168). -/
def Fcw.arithKeepC {w : Nat} (f : Fcw) (a : AluResult w) : Fcw := { f.setZS a.r with pv := a.v }

/-- Whether a value has an even number of 1 bits (R31): the parity P. -/
def evenParity {w : Nat} (v : BitVec w) : Bool := ((List.range w).filter fun i => v.getLsbD i).length % 2 == 0

/-- `LogicFlags(W, r)`: Z and S; P for a byte only (R180). -/
def Fcw.logic (W : Width) (f : Fcw) (r : BitVec W.bits) : Fcw :=
  match W with
  | .byte => { f.setZS r with pv := evenParity r }
  | .word | .long => f.setZS r

/-- The flags of NEG: V for the most negative value, C unless the result is 0 (R170). -/
def Fcw.negate {w : Nat} (f : Fcw) (r : BitVec w) : Fcw :=
  { f.setZS r with c := r != 0, pv := r == BitVec.twoPow w (w - 1) }

end Sys2Proof.Machine
end

