-- ==== Sys2Proof/Machine/Memory.lean ====
section
/-! DEFINITION. Memory as a list of cells in canonical form, and addresses (20_memory.md R60 to R64, R71 to R73). -/

namespace Sys2Proof.Machine

/-- The byte at a key, where one has been written (R62, 10_state.md R41). -/
def Memory.get : Memory → Nat → Option Byte
  | [], _ => none
  | (x, b) :: m, k => if x = k then some b else Memory.get m k

/-- Write one byte, keeping the addresses strictly rising (R62). -/
def Memory.set : Memory → Nat → Byte → Memory
  | [], k, v => [(k, v)]
  | (x, b) :: m, k, v =>
    if k < x then (k, v) :: (x, b) :: m
    else if k = x then (k, v) :: m
    else (x, b) :: Memory.set m k v

/-- `a +a k`: only the offset takes part, modulo 2^16 (R73). -/
def Addr.add (a : Addr) (k : Word) : Addr := { a with off := a.off + k }

/-- The place of an address in memory: 128 segments of 64 KiB (R60, D5). Log 8. -/
def Addr.key (a : Addr) : Nat := a.seg.toNat * 65536 + a.off.toNat

/-- An odd offset (R65). -/
def Addr.odd (a : Addr) : Bool := a.off.getLsbD 0

/-- The segment word of an address in memory or in a register: the reserved bits are 0 (R72). -/
def Addr.segWord (a : Addr) : Word := 0#1 ++ a.seg ++ 0#8

/-- The address two words hold: the reserved bits of the segment word are ignored (R72). -/
def Addr.ofWords (segWord off : Word) : Addr := ⟨segWord.extractLsb' 8 7, off⟩

end Sys2Proof.Machine
end

