-- ==== Sys2Proof/Machine/Ops.lean ====
section
/-! DEFINITION. The named operations over registers, memory, stacks, I/O and free values, and taking an exception and
returning from one (10_state.md, 20_memory.md, 60_exceptions.md). Every meaning is built from these. While an
instruction executes, `s.pc` is `PCnext`, the address of the instruction after it (00_scope.md R14). -/

namespace Sys2Proof.Machine

/-- Go on from a result; a fault or a refusal ends the step. -/
def Res.andThen {α β : Type} (x : Res α) (f : α → Res β) : Res β :=
  match x with
  | .next a => f a
  | .fault r => .fault r
  | .refused r => .refused r

/-! ## Modes -/

/-- The machine is a Z8001 (D1). -/
def State.isZ8001 (s : State) : Bool := s.par.variant == .z8001

/-- Segmented mode: FCW.SEG, on a Z8001 only (20_memory.md R71, 10_state.md R30). -/
def State.segmented (s : State) : Bool := s.isZ8001 && s.fcw.seg

/-- Normal mode: FCW.S/N = 0 (60_exceptions.md R351). -/
def State.normal (s : State) : Bool := !s.fcw.sys

/-! ## Registers -/

/-- `R[k]`: in normal mode R15, and R14 on a Z8001, name the normal copies (10_state.md R26). -/
def State.reg (s : State) (k : RegNo) : Word :=
  if s.normal ∧ k = 15 then s.nspOff
  else if s.normal ∧ s.isZ8001 ∧ k = 14 then s.nspSeg
  else s.regs[k.toNat]

/-- `R[k] <- v` (10_state.md R26). -/
def State.setReg (s : State) (k : RegNo) (v : Word) : State :=
  if s.normal ∧ k = 15 then { s with nspOff := v }
  else if s.normal ∧ s.isZ8001 ∧ k = 14 then { s with nspSeg := v }
  else { s with regs := s.regs.set k.toNat v }

/-- The word register a byte register is half of (10_state.md R24). -/
def byteHome (k : RegNo) : RegNo := 0#1 ++ k.extractLsb' 0 3

/-- `RH[k]` for k in 0..7, `RL[k-8]` for k in 8..15 (10_state.md R24). -/
def State.byteReg (s : State) (k : RegNo) : Byte :=
  if k.msb then (s.reg (byteHome k)).extractLsb' 0 8 else (s.reg (byteHome k)).extractLsb' 8 8

/-- Write a byte register; the other half of the word register is kept (10_state.md R24). -/
def State.setByteReg (s : State) (k : RegNo) (v : Byte) : State :=
  let w := s.reg (byteHome k)
  s.setReg (byteHome k) (if k.msb then w.extractLsb' 8 8 ++ v else v ++ w.extractLsb' 0 8)

/-- `RR[k] = R[k] ++ R[k+1]` (10_state.md R22). -/
def State.longReg (s : State) (k : RegNo) : Long := s.reg k ++ s.reg (k + 1)

/-- Write a pair: the high-order word to `R[k]` (10_state.md R22). -/
def State.setLongReg (s : State) (k : RegNo) (v : Long) : State :=
  (s.setReg k (v.extractLsb' 16 16)).setReg (k + 1) (v.extractLsb' 0 16)

/-- `RQ[k] = RR[k] ++ RR[k+2]` (10_state.md R23). -/
def State.quadReg (s : State) (k : RegNo) : Quad := s.longReg k ++ s.longReg (k + 2)

/-- Write a quadruple (10_state.md R23). -/
def State.setQuadReg (s : State) (k : RegNo) (v : Quad) : State :=
  (s.setLongReg k (v.extractLsb' 32 32)).setLongReg (k + 2) (v.extractLsb' 0 32)

/-- `Reg(W, k)` (10_state.md R24). -/
def State.regW (s : State) (W : Width) (k : RegNo) : BitVec W.bits :=
  match W with
  | .byte => s.byteReg k
  | .word => s.reg k
  | .long => s.longReg k

/-- `Reg(W, k) <- v` (10_state.md R24). -/
def State.setRegW (s : State) (W : Width) (k : RegNo) (v : BitVec W.bits) : State :=
  match W, v with
  | .byte, v => s.setByteReg k v
  | .word, v => s.setReg k v
  | .long, v => s.setLongReg k v

/-! ## Addresses and pointers -/

/-- An address of 16 bits: in non-segmented mode it lies in the PC's segment (20_memory.md R74). Log 9. -/
def State.near (s : State) (off : Word) : Addr := ⟨s.pc.seg, off⟩

/-- The address a pointer register holds: a word register, or in segmented mode a pair whose reserved bits are
ignored (30_encoding.md R100, 20_memory.md R72). -/
def State.pointer (s : State) (p : RegNo) : Addr :=
  if s.segmented then Addr.ofWords (s.reg p) (s.reg (p + 1)) else s.near (s.reg p)

/-- The word register that holds a pointer's offset: the only one that moves (20_memory.md R72, R73). -/
def State.offsetReg (s : State) (p : RegNo) : RegNo := if s.segmented then p + 1 else p

/-- The word registers of a pointer (30_encoding.md R93). -/
def State.pointerRegs (s : State) (p : RegNo) : List RegNo := if s.segmented then [p, p + 1] else [p]

/-- `pointer <- pointer +a k` (20_memory.md R72, R73). -/
def State.stepPointer (s : State) (p : RegNo) (k : Word) : State :=
  s.setReg (s.offsetReg p) (s.reg (s.offsetReg p) + k)

/-- Load an address into a word register, or in segmented mode into a pair with its reserved bits 0
(40_load_exchange.md R144, R145). -/
def State.loadAddress (s : State) (d : RegNo) (a : Addr) : State :=
  if s.segmented then (s.setReg d a.segWord).setReg (d + 1) a.off else s.setReg d a.off

/-- The processor stack pointer: RR14 in segmented mode, R15 otherwise (10_state.md R25). -/
def State.stackReg (s : State) : RegNo := if s.segmented then 14 else 15

/-! ## Memory -/

/-- The address is admitted (D5, parameter `MEM_ADMITTED`). -/
def State.admits (s : State) (a : Addr) : Bool :=
  s.par.admitted.any fun r => decide (r.base ≤ a.key) && decide (a.key < r.base + r.size)

/-- `MemRead(a, 1)` (20_memory.md R62, R70, 10_state.md R41). -/
def State.readByte (s : State) (a : Addr) : Res Byte :=
  if s.admits a then
    match s.mem.get a.key with
    | some b => .next b
    | none => .fault .unwrittenMemory
  else .fault .absentMemory

/-- `MemWrite(a, 1, v)` (20_memory.md R62, R70). -/
def State.writeByte (s : State) (a : Addr) (v : Byte) : Res State :=
  if s.admits a then .next { s with mem := s.mem.set a.key v } else .fault .absentMemory

/-- `MemRead(a, 2)`: the high-order byte at the lower address (20_memory.md R64, R65). -/
def State.readWord (s : State) (a : Addr) : Res Word :=
  if a.odd then .fault .oddAddress
  else (s.readByte a).andThen fun hi => (s.readByte (a.add 1)).andThen fun lo => .next (hi ++ lo)

/-- `MemWrite(a, 2, v)` (20_memory.md R64, R65). -/
def State.writeWord (s : State) (a : Addr) (v : Word) : Res State :=
  if a.odd then .fault .oddAddress
  else (s.writeByte a (v.extractLsb' 8 8)).andThen fun s => s.writeByte (a.add 1) (v.extractLsb' 0 8)

/-- `MemRead(a, 4)`: two word accesses, the high-order word at the lower address (20_memory.md R64, R67). -/
def State.readLong (s : State) (a : Addr) : Res Long :=
  (s.readWord a).andThen fun hi => (s.readWord (a.add 2)).andThen fun lo => .next (hi ++ lo)

/-- `MemWrite(a, 4, v)` (20_memory.md R64, R67). -/
def State.writeLong (s : State) (a : Addr) (v : Long) : Res State :=
  (s.writeWord a (v.extractLsb' 16 16)).andThen fun s => s.writeWord (a.add 2) (v.extractLsb' 0 16)

/-- `MemRead(a, W/8)` (00_scope.md R13). -/
def State.read (s : State) (W : Width) (a : Addr) : Res (BitVec W.bits) :=
  match W with
  | .byte => s.readByte a
  | .word => s.readWord a
  | .long => s.readLong a

/-- `MemWrite(a, W/8, v)` (00_scope.md R13). -/
def State.write (s : State) (W : Width) (a : Addr) (v : BitVec W.bits) : Res State :=
  match W, v with
  | .byte, v => s.writeByte a v
  | .word, v => s.writeWord a v
  | .long, v => s.writeLong a v

/-- One of the `n` bytes from `a` lies in the word at the PC, the word right after the instruction (20_memory.md R82). -/
def State.touchesNext (s : State) (a : Addr) (n : Nat) : Bool :=
  (List.range n).any fun i => a.add (BitVec.ofNat 16 i) == s.pc || a.add (BitVec.ofNat 16 i) == s.pc.add 1

/-- A store by an instruction: `MemWrite(a, W/8, v)`, refused where it falls into the word right after the
instruction (20_memory.md R82, U20). Log 10. -/
def State.store (s : State) (W : Width) (a : Addr) (v : BitVec W.bits) : Res State :=
  if s.touchesNext a W.bytes then .fault .storeIntoNextWord else s.write W a v

/-! ## Stacks -/

/-- `Push(sp, W/8, v)` on the pointer register `p` (20_memory.md R84). -/
def State.push (s : State) (W : Width) (p : RegNo) (v : BitVec W.bits) : Res State :=
  let t := s.stepPointer p (-(BitVec.ofNat 16 W.bytes))
  t.store W (t.pointer p) v

/-- `Pop(sp, W/8)` on the pointer register `p`: the value and the state with the pointer moved (20_memory.md R84). -/
def State.pop (s : State) (W : Width) (p : RegNo) : Res (BitVec W.bits × State) :=
  (s.read W (s.pointer p)).andThen fun v => .next (v, s.stepPointer p (BitVec.ofNat 16 W.bytes))

/-- `PushAddr(SP, a)` (20_memory.md R84). -/
def State.pushAddr (s : State) (a : Addr) : Res State :=
  if s.segmented then s.push .long s.stackReg (a.segWord ++ a.off) else s.push .word s.stackReg a.off

/-- `PopAddr(SP)` (20_memory.md R84). -/
def State.popAddr (s : State) : Res (Addr × State) :=
  if s.segmented then
    (s.pop .long s.stackReg).andThen fun (v, t) =>
      .next (Addr.ofWords (v.extractLsb' 16 16) (v.extractLsb' 0 16), t)
  else (s.pop .word s.stackReg).andThen fun (v, t) => .next (s.near v, t)

/-! ## Taking an exception and returning from one -/

/-- The kinds of entry (60_exceptions.md R330). -/
inductive Entry where
  | extended
  | privileged
  | systemCall
  | segmentTrap
  | nmi
  | nvi
  | vi
  deriving DecidableEq, Repr

/-- The byte offset in the program status area of an entry's FCW word (60_exceptions.md R347). -/
def Entry.fcwOffset (k : Entry) (v : Variant) : Word :=
  match k, v with
  | .extended, .z8002 => 4
  | .privileged, .z8002 => 8
  | .systemCall, .z8002 => 12
  | .segmentTrap, .z8002 => 16
  | .nmi, .z8002 => 20
  | .nvi, .z8002 => 24
  | .vi, .z8002 => 28
  | .extended, .z8001 => 10
  | .privileged, .z8001 => 18
  | .systemCall, .z8001 => 26
  | .segmentTrap, .z8001 => 34
  | .nmi, .z8001 => 42
  | .nvi, .z8001 => 50
  | .vi, .z8001 => 58

/-- The byte offset of an entry's PC: after the FCW word; for a vectored interrupt `30 + 2*v` or `60 + 2*v`, `v` the low
byte of the identifier (60_exceptions.md R337, R347). -/
def Entry.pcOffset (k : Entry) (v : Variant) (id : Word) : Word :=
  match k with
  | .vi => k.fcwOffset v + 2 + 2 * (id &&& 0x00FF)
  | .extended | .privileged | .systemCall | .segmentTrap | .nmi | .nvi => k.fcwOffset v + 2

/-- The base of the program status area: the low byte of PSAPOFF and the reserved bits of PSAPSEG do not count
(60_exceptions.md R347, U4). -/
def State.psaBase (s : State) : Addr :=
  ⟨if s.isZ8001 then s.psapSeg.extractLsb' 8 7 else 0, s.psapOff &&& 0xFF00⟩

/-- The PC a program status holds at `a`: a segment word and an offset word on a Z8001, one word on a Z8002
(10_state.md R29). -/
def State.readPc (s : State) (a : Addr) : Res Addr :=
  if s.isZ8001 then
    (s.readWord a).andThen fun sg => (s.readWord (a.add 2)).andThen fun off => .next (Addr.ofWords sg off)
  else (s.readWord a).andThen fun off => .next (s.near off)

/-- Step 1 of the entry: system mode, and on a Z8001 segmented mode (60_exceptions.md R345). -/
def State.systemMode (s : State) : State :=
  { s with fcw := { s.fcw with sys := true, seg := s.fcw.seg || s.isZ8001 } }

/-- The bytes an entry pushes: the PC, the FCW and the identifier (60_exceptions.md R345). -/
def State.entryBytes (s : State) : Nat := if s.isZ8001 then 8 else 6

/-- The lowest address an entry pushes to: the new system stack pointer (60_exceptions.md R345). -/
def State.entryFrame (s : State) : Addr :=
  (s.systemMode.pointer s.systemMode.stackReg).add (-(BitVec.ofNat 16 s.entryBytes))

/-- A push of the entry sequence. Only the system call's are stores of an instruction, and that instruction checks the whole
frame (60_exceptions.md R345, 20_memory.md R82, log 10). -/
def State.entryPush (s : State) (v : Word) : Res State :=
  let t := s.stepPointer s.stackReg (-2)
  t.writeWord (t.pointer t.stackReg) v

/-- Step 2 of the entry: the pushes onto the system stack, the PC first (60_exceptions.md R345). -/
def State.pushFrame (s : State) (pc : Addr) (fcw id : Word) : Res State :=
  (s.entryPush pc.off).andThen fun s =>
  (if s.isZ8001 then s.entryPush pc.segWord else .next s).andThen fun s =>
  (s.entryPush fcw).andThen fun s =>
  s.entryPush id

/-- Steps 3 and 4 of the entry: load the new program status from the program status area; not halted any more
(60_exceptions.md R345, R347). -/
def State.loadEntry (s : State) (k : Entry) (id : Word) : Res State :=
  (s.readWord (s.psaBase.add (k.fcwOffset s.par.variant))).andThen fun f =>
  (s.readPc (s.psaBase.add (k.pcOffset s.par.variant id))).andThen fun pc =>
  .next { s with fcw := .ofWord s.par f, pc := pc, halted := false }

/-- `Enter(kind, id)` with the PC to save (60_exceptions.md R345): the saved FCW is the one before step 1. -/
def enter (k : Entry) (id : Word) (savedPc : Addr) (s : State) : Res State :=
  (s.systemMode.pushFrame savedPc s.fcw.toWord id).andThen fun t => t.loadEntry k id

/-- Return from an exception: discard the identifier, then pop the FCW and the PC (43_program_control.md R193,
60_exceptions.md R349). The format is chosen by the segmentation mode before the return; a non-segmented return
keeps the PC's segment (log 32). -/
def returnFromException (s : State) : Res State :=
  let p := s.stackReg
  ((s.stepPointer p 2).pop .word p).andThen fun (f, t) =>
  if s.segmented then
    (t.pop .word p).andThen fun (sg, t) => (t.pop .word p).andThen fun (off, t) =>
      .next { t with fcw := .ofWord s.par f, pc := Addr.ofWords sg off }
  else (t.pop .word p).andThen fun (off, t) => .next { t with fcw := .ofWord s.par f, pc := s.near off }

/-- The first word of an instruction: the identifier of its traps (60_exceptions.md R346). -/
def instrWord (i : Instr) : Word := (encode i).headD 0

/-- The address of the first word of the instruction in execution (30_encoding.md R90). -/
def State.instrPc (s : State) (i : Instr) : Addr := s.pc.add (-(BitVec.ofNat 16 (2 * (encode i).length)))

/-- The PC the privileged-instruction and extended-instruction traps save (60_exceptions.md R342, parameter
`TRAP_PC_RULE` of D25). Log 18. -/
def State.trapPc (s : State) (i : Instr) : Addr :=
  match s.par.trapPcRule with
  | .firstWordPlusTwo => (s.instrPc i).add 2
  | .nextInstruction => s.pc

/-- A privileged instruction: in normal mode the privileged-instruction trap and nothing else (60_exceptions.md R332,
49_cpu_control.md R299, D15). -/
def privileged (i : Instr) (effect : State → Res State) (s : State) : Res State :=
  if s.fcw.sys then effect s else enter .privileged (instrWord i) (s.trapPc i) s

/-! ## Input, output and pins -/

/-- The device's answer to the next I/O read: the environment's, or a free value where it says nothing (D11). Log 21. -/
def State.ioAnswer (s : State) : Word :=
  match s.ioIn with
  | v :: _ => v
  | [] => Config.freeValue 16 s.free

/-- A transferred value of width `W`: of a byte transfer the low byte counts. -/
def ioValue (W : Width) (v : Word) : Word :=
  match W with
  | .byte => 0#8 ++ v.extractLsb' 0 8
  | .word | .long => v

/-- The state after an I/O read: the answer is used up and the access is recorded (20_memory.md R69). -/
def State.ioReadDone (s : State) (space : IoSpace) (W : Width) (port : Word) : State :=
  { s with ioIn := s.ioIn.tail
           free := if s.ioIn.isEmpty then s.free + 1 else s.free
           ioLog := s.ioLog ++ [⟨space, port, false, W, ioValue W s.ioAnswer⟩] }

/-- The state after an I/O write: the access is recorded (20_memory.md R69). -/
def State.ioWriteDone (s : State) (space : IoSpace) (W : Width) (port v : Word) : State :=
  { s with ioLog := s.ioLog ++ [⟨space, port, true, W, ioValue W v⟩] }

/-- The next sample of the MI pin: the environment's, or free where it says nothing (D12). Log 22. -/
def State.miLevel (s : State) : Pin :=
  match s.miIn with
  | p :: _ => p
  | [] => if Config.freeBit s.free then .low else .high

/-- The state after MI has been sampled. -/
def State.miSampled (s : State) : State :=
  { s with miIn := s.miIn.tail, free := if s.miIn.isEmpty then s.free + 1 else s.free }

/-! ## Flags left undefined -/

/-- Z is any value (93_implementation_defined.md U1). Log 11. -/
def State.freeZ (s : State) : State :=
  { s with fcw := { s.fcw with z := Config.freeBit s.free }, free := s.free + 1 }

/-- S is any value (93_implementation_defined.md U1). Log 11. -/
def State.freeS (s : State) : State :=
  { s with fcw := { s.fcw with s := Config.freeBit s.free }, free := s.free + 1 }

/-- C is any value (93_implementation_defined.md U1). Log 11. -/
def State.freeC (s : State) : State :=
  { s with fcw := { s.fcw with c := Config.freeBit s.free }, free := s.free + 1 }

/-- P/V is any value (93_implementation_defined.md U1). Log 11. -/
def State.freePv (s : State) : State :=
  { s with fcw := { s.fcw with pv := Config.freeBit s.free }, free := s.free + 1 }

end Sys2Proof.Machine
end

