-- ==== Sys2Proof/Machine/Operands.lean ====
section
/-! DEFINITION. Every operand form: effective addresses, reading a source, and a destination that is read and written
(30_encoding.md R99, R100; 40_load_exchange.md R140). -/

namespace Sys2Proof.Machine

/-- The address in an instruction: a 16-bit one lies in the PC's segment; a short offset is extended with zeros
(30_encoding.md R97, R98, 20_memory.md R74). -/
def State.fieldAddr (s : State) : AddrField → Addr
  | .near a => s.near a
  | .short seg off => ⟨seg, 0#8 ++ off⟩
  | .long seg off => ⟨seg, off⟩

/-- `EA` of IR, DA and X (30_encoding.md R100). -/
def State.ea (s : State) : Mem → Addr
  | .ir p => s.pointer p
  | .da a => s.fieldAddr a
  | .x a i => (s.fieldAddr a).add (s.reg i)

/-- `EA` of BA and BX (30_encoding.md R100). -/
def State.eaBased (s : State) : Based → Addr
  | .ba p disp => (s.pointer p).add disp
  | .bx p i => (s.pointer p).add (s.reg i)

/-- `EA` of RA: the displacement is added to the updated PC (30_encoding.md R99, 40_load_exchange.md R148). -/
def State.eaRelative (s : State) (disp : Word) : Addr := s.pc.add disp

/-- `Read(W, src)` (40_load_exchange.md R140(a)). -/
def State.readSrc {W : Width} (s : State) : Src W → Res (BitVec W.bits)
  | .reg k => .next (s.regW W k)
  | .imm v => .next v
  | .mem m => s.read W (s.ea m)

/-- Where a destination is: a register, or the memory at an address computed once, first (40_load_exchange.md R140(a)). -/
inductive Place where
  | reg (k : RegNo)
  | mem (a : Addr)
  deriving DecidableEq, Repr

/-- The place of a register or memory operand (40_load_exchange.md R140(a)). -/
def State.place (s : State) : Dst → Place
  | .reg k => .reg k
  | .mem m => .mem (s.ea m)

/-- Read a place (40_load_exchange.md R140(a)). -/
def State.readPlace (s : State) (W : Width) : Place → Res (BitVec W.bits)
  | .reg k => .next (s.regW W k)
  | .mem a => s.read W a

/-- Write a place (40_load_exchange.md R140(a)). -/
def State.writePlace (s : State) (W : Width) (p : Place) (v : BitVec W.bits) : Res State :=
  match p with
  | .reg k => .next (s.setRegW W k v)
  | .mem a => s.store W a v

/-- Read a register or memory operand. -/
def State.readDst (s : State) (W : Width) (dst : Dst) : Res (BitVec W.bits) := s.readPlace W (s.place dst)

/-- Write a register or memory operand. -/
def State.writeDst (s : State) (W : Width) (dst : Dst) (v : BitVec W.bits) : Res State :=
  s.writePlace W (s.place dst) v

/-- Read a register or memory operand, write the result back, then set the flags (40_load_exchange.md R140(b), D2). -/
def State.modify (s : State) (W : Width) (dst : Dst) (result : BitVec W.bits → BitVec W.bits)
    (flags : BitVec W.bits → Fcw) : Res State :=
  (s.readDst W dst).andThen fun v =>
  (s.writeDst W dst (result v)).andThen fun t =>
  .next { t with fcw := flags v }

/-- The port a port operand names (48_io.md R272, R273). -/
def State.portOf (s : State) : Port → Word
  | .ind p => s.reg p
  | .direct port => port

end Sys2Proof.Machine
end

