-- ==== Sys2Proof/Machine/Arithmetic.lean ====
section
/-! DEFINITION. Arithmetic (41_arithmetic.md R160 to R173): ADC, ADD, CP, DAB, DEC, DIV, EXTS, INC, MULT, NEG, SBC, SUB. -/

namespace Sys2Proof.Machine

/-- The flags of an addition: a byte addition also clears DA and sets H (R160 to R162). -/
def Fcw.added (W : Width) (f : Fcw) (a : AluResult W.bits) : Fcw :=
  match W with
  | .byte => f.arithByte false a
  | .word | .long => f.arith a

/-- The flags of a subtraction: a byte subtraction also sets DA and H (R160, R171, R172). -/
def Fcw.subtracted (W : Width) (f : Fcw) (a : AluResult W.bits) : Fcw :=
  match W with
  | .byte => f.arithByte true a
  | .word | .long => f.arith a

/-- `Reg(W, d) <- r`, and the flags (R160, D2). -/
def State.result (s : State) (W : Width) (d : RegNo) (r : BitVec W.bits) (f : Fcw) : State :=
  { s.setRegW W d r with fcw := f }

/-- `(r, c, v, h) <- AddW(W, Reg(W,d), b, carry); Reg(W,d) <- r` (R161, R162). -/
def addTo (W : Width) (d : RegNo) (b : BitVec W.bits) (carry : Bool) (s : State) : State :=
  let a := addW (s.regW W d) b carry
  s.result W d a.r (s.fcw.added W a)

/-- `(r, c, v, h) <- SubW(W, Reg(W,d), b, borrow); Reg(W,d) <- r` (R171, R172). -/
def subFrom (W : Width) (d : RegNo) (b : BitVec W.bits) (borrow : Bool) (s : State) : State :=
  let a := subW (s.regW W d) b borrow
  s.result W d a.r (s.fcw.subtracted W a)

/-- `SubW(W, a, b, 0)` for its flags alone; DA and H are kept even by CPB (R163). -/
def compare {w : Nat} (a b : BitVec w) (s : State) : State := { s with fcw := s.fcw.arith (subW a b false) }

/-- The operand of INC and DEC: field plus one (30_encoding.md R96). -/
def countOf (w : Nat) (n : BitVec 4) : BitVec w := BitVec.ofNat w (n.toNat + 1)

/-- INC: `AddW(W, Read(dst), n, 0)`; C, DA, H kept (R168). -/
def increment (W : Width) (dst : Dst) (n : BitVec 4) (s : State) : Res State :=
  s.modify W dst (fun v => (addW v (countOf W.bits n) false).r)
    fun v => s.fcw.arithKeepC (addW v (countOf W.bits n) false)

/-- DEC: `SubW(W, Read(dst), n, 0)`; C, DA, H kept (R165). -/
def decrement (W : Width) (dst : Dst) (n : BitVec 4) (s : State) : Res State :=
  s.modify W dst (fun v => (subW v (countOf W.bits n) false).r)
    fun v => s.fcw.arithKeepC (subW v (countOf W.bits n) false)

/-- NEG: `r <- (0 - v) mod 2^W` (R170). -/
def negate (W : Width) (dst : Dst) (s : State) : Res State :=
  s.modify W dst (fun v => -v) fun v => s.fcw.negate (-v)

/-! ## Decimal adjust -/

/-- A row of the table of R164: DA, C before, the range of the high digit, H, the range of the low digit, the amount
added, C after. -/
structure DabRow where
  da  : Bool
  c   : Bool
  hi0 : Nat
  hi1 : Nat
  h   : Bool
  lo0 : Nat
  lo1 : Nat
  add : Byte
  c'  : Bool
  deriving DecidableEq, Repr

/-- The table of R164. -/
def dabTable : List DabRow :=
  [ ⟨false, false, 0x0, 0x9, false, 0x0, 0x9, 0x00, false⟩,
    ⟨false, false, 0x0, 0x8, false, 0xA, 0xF, 0x06, false⟩,
    ⟨false, false, 0x0, 0x9, true,  0x0, 0x3, 0x06, false⟩,
    ⟨false, false, 0xA, 0xF, false, 0x0, 0x9, 0x60, true⟩,
    ⟨false, false, 0x9, 0xF, false, 0xA, 0xF, 0x66, true⟩,
    ⟨false, false, 0xA, 0xF, true,  0x0, 0x3, 0x66, true⟩,
    ⟨false, true,  0x0, 0x2, false, 0x0, 0x9, 0x60, true⟩,
    ⟨false, true,  0x0, 0x2, false, 0xA, 0xF, 0x66, true⟩,
    ⟨false, true,  0x0, 0x3, true,  0x0, 0x3, 0x66, true⟩ ] ++
  [ ⟨true,  false, 0x0, 0x9, false, 0x0, 0x9, 0x00, false⟩,
    ⟨true,  false, 0x0, 0x8, true,  0x6, 0xF, 0xFA, false⟩,
    ⟨true,  true,  0x7, 0xF, false, 0x0, 0x9, 0xA0, true⟩,
    ⟨true,  true,  0x6, 0xF, true,  0x6, 0xF, 0x9A, true⟩ ]

/-- The row covers the flags and the byte (R164). -/
def DabRow.covers (row : DabRow) (f : Fcw) (v : Byte) : Bool :=
  row.da == f.da && row.c == f.c && row.h == f.h
    && decide (row.hi0 ≤ v.toNat / 16) && decide (v.toNat / 16 ≤ row.hi1)
    && decide (row.lo0 ≤ v.toNat % 16) && decide (v.toNat % 16 ≤ row.lo1)

/-- The adjustment the table gives for the flags and the byte, if any row covers them (R164). -/
def dabRow (f : Fcw) (v : Byte) : Option DabRow := dabTable.find? fun row => row.covers f v

/-- `Reg(8,d) <- (v + add) mod 256` with C from the table; where no row covers the case the result, C, Z and S are any
value (R164, U10). Log 13. -/
def decimalAdjust (d : RegNo) (s : State) : State :=
  match dabRow s.fcw (s.byteReg d) with
  | some row =>
    let r := s.byteReg d + row.add
    { s.setByteReg d r with fcw := { s.fcw.setZS r with c := row.c' } }
  | none =>
    { s.setByteReg d (Config.freeValue 8 s.free) with
        fcw := { s.fcw with c := Config.freeBit (s.free + 1), z := Config.freeBit (s.free + 2),
                            s := Config.freeBit (s.free + 3) }
        free := s.free + 4 }

/-! ## Multiply and divide -/

/-- The product in unbounded integers (R169). -/
def product {h : Nat} (a b : BitVec h) : Int := a.toInt * b.toInt

/-- The flags of a multiplication: C when the product does not fit the low-order half as a signed number (R169). -/
def Fcw.multiplied (f : Fcw) (h : Nat) (p : Int) : Fcw :=
  { f with c := decide (p < -(2 ^ (h - 1) : Int) ∨ (2 ^ (h - 1) : Int) ≤ p)
           z := decide (p = 0)
           s := decide (p < 0)
           pv := false }

/-- The four cases of a division (R166). -/
inductive DivCase where
  | divisorZero
  | fits (q rem : Int)
  | oneBitTooLong (q rem : Int)
  | overflow
  deriving DecidableEq, Repr

/-- The case of `a / b` with an `h`-bit quotient, truncated toward zero (R166). -/
def divCase (h : Nat) (a b : Int) : DivCase :=
  if b = 0 then .divisorZero
  else
    let q := a.tdiv b
    let rem := a.tmod b
    if -(2 ^ (h - 1) : Int) ≤ q ∧ q ≤ (2 ^ (h - 1) : Int) - 1 then .fits q rem
    else if -(2 ^ h : Int) ≤ q ∧ q ≤ (2 ^ h : Int) - 1 then .oneBitTooLong q rem
    else .overflow

/-- The destination after a division: remainder in the high-order half, quotient in the low-order half; after an
overflow any value, `free` being the number of values drawn before (R166). Log 15. -/
def DivCase.dest {h : Nat} (old : BitVec (h + h)) (free : Nat) : DivCase → BitVec (h + h)
  | .divisorZero => old
  | .fits q rem | .oneBitTooLong q rem => BitVec.ofInt h rem ++ BitVec.ofInt h q
  | .overflow => Config.freeValue (h + h) free

/-- The flags after a division; S after an overflow is any value (R166, U1). Log 15. -/
def DivCase.flags (f : Fcw) (free : Nat) : DivCase → Fcw
  | .divisorZero => { f with c := false, z := true, s := false, pv := true }
  | .fits q _ => { f with c := false, z := decide (q = 0), s := decide (q < 0), pv := false }
  | .oneBitTooLong q _ => { f with c := true, z := decide (q = 0), s := decide (q < 0), pv := true }
  | .overflow => { f with c := false, z := false, s := Config.freeBit (free + 1), pv := true }

/-- The number of free values drawn after a division. -/
def DivCase.freeAfter (free : Nat) : DivCase → Nat
  | .divisorZero | .fits _ _ | .oneBitTooLong _ _ => free
  | .overflow => free + 2

/-! ## The instructions -/

/-- ADCB (R161). -/
def execAdcb (d r : RegNo) (s : State) : Res State := .next (addTo .byte d (s.regW .byte r) s.fcw.c s)

/-- ADC (R161). -/
def execAdc (d r : RegNo) (s : State) : Res State := .next (addTo .word d (s.regW .word r) s.fcw.c s)

/-- SBCB (R171). -/
def execSbcb (d r : RegNo) (s : State) : Res State := .next (subFrom .byte d (s.regW .byte r) s.fcw.c s)

/-- SBC (R171). -/
def execSbc (d r : RegNo) (s : State) : Res State := .next (subFrom .word d (s.regW .word r) s.fcw.c s)

/-- ADDB (R162). -/
def execAddb (d : RegNo) (src : Src .byte) (s : State) : Res State :=
  (s.readSrc src).andThen fun v => .next (addTo .byte d v false s)

/-- ADD (R162). -/
def execAdd (d : RegNo) (src : Src .word) (s : State) : Res State :=
  (s.readSrc src).andThen fun v => .next (addTo .word d v false s)

/-- ADDL (R162). -/
def execAddl (d : RegNo) (src : Src .long) (s : State) : Res State :=
  (s.readSrc src).andThen fun v => .next (addTo .long d v false s)

/-- SUBB (R172). -/
def execSubb (d : RegNo) (src : Src .byte) (s : State) : Res State :=
  (s.readSrc src).andThen fun v => .next (subFrom .byte d v false s)

/-- SUB (R172). -/
def execSub (d : RegNo) (src : Src .word) (s : State) : Res State :=
  (s.readSrc src).andThen fun v => .next (subFrom .word d v false s)

/-- SUBL (R172). -/
def execSubl (d : RegNo) (src : Src .long) (s : State) : Res State :=
  (s.readSrc src).andThen fun v => .next (subFrom .long d v false s)

/-- CPB, register with R, IM, IR, DA, X (R163). -/
def execCpb (d : RegNo) (src : Src .byte) (s : State) : Res State :=
  (s.readSrc src).andThen fun v => .next (compare (s.regW .byte d) v s)

/-- CP, register with R, IM, IR, DA, X (R163). -/
def execCp (d : RegNo) (src : Src .word) (s : State) : Res State :=
  (s.readSrc src).andThen fun v => .next (compare (s.regW .word d) v s)

/-- CPL, register with R, IM, IR, DA, X (R163). -/
def execCpl (d : RegNo) (src : Src .long) (s : State) : Res State :=
  (s.readSrc src).andThen fun v => .next (compare (s.regW .long d) v s)

/-- CPB, memory with immediate (R163). -/
def execCpbImm (dst : Mem) (v : BitVec 8) (s : State) : Res State :=
  (s.read .byte (s.ea dst)).andThen fun m => .next (compare m v s)

/-- CP, memory with immediate (R163). -/
def execCpImm (dst : Mem) (v : BitVec 16) (s : State) : Res State :=
  (s.read .word (s.ea dst)).andThen fun m => .next (compare m v s)

/-- DAB (R164). -/
def execDab (d : RegNo) (s : State) : Res State := .next (decimalAdjust d s)

/-- INCB (R168). -/
def execIncb (dst : Dst) (n : BitVec 4) (s : State) : Res State := increment .byte dst n s

/-- INC (R168). -/
def execInc (dst : Dst) (n : BitVec 4) (s : State) : Res State := increment .word dst n s

/-- DECB (R165). -/
def execDecb (dst : Dst) (n : BitVec 4) (s : State) : Res State := decrement .byte dst n s

/-- DEC (R165). -/
def execDec (dst : Dst) (n : BitVec 4) (s : State) : Res State := decrement .word dst n s

/-- MULT: the multiplicand is the low-order half of the pair (R169). -/
def execMult (d : RegNo) (src : Src .word) (s : State) : Res State :=
  (s.readSrc src).andThen fun v =>
  let p := product (s.reg (d + 1)) v
  .next { s.setLongReg d (BitVec.ofInt 32 p) with fcw := s.fcw.multiplied 16 p }

/-- MULTL: the multiplicand is the low-order half of the quadruple (R169). -/
def execMultl (d : RegNo) (src : Src .long) (s : State) : Res State :=
  (s.readSrc src).andThen fun v =>
  let p := product (s.longReg (d + 2)) v
  .next { s.setQuadReg d (BitVec.ofInt 64 p) with fcw := s.fcw.multiplied 32 p }

/-- DIV: a 32-bit dividend by a word (R166). -/
def execDiv (d : RegNo) (src : Src .word) (s : State) : Res State :=
  (s.readSrc src).andThen fun v =>
  let k := divCase 16 (s.longReg d).toInt (BitVec.toInt v)
  .next { s.setLongReg d (k.dest (h := 16) (s.longReg d) s.free) with
            fcw := k.flags s.fcw s.free, free := k.freeAfter s.free }

/-- DIVL: a 64-bit dividend by a long word (R166). -/
def execDivl (d : RegNo) (src : Src .long) (s : State) : Res State :=
  (s.readSrc src).andThen fun v =>
  let k := divCase 32 (s.quadReg d).toInt (BitVec.toInt v)
  .next { s.setQuadReg d (k.dest (h := 32) (s.quadReg d) s.free) with
            fcw := k.flags s.fcw s.free, free := k.freeAfter s.free }

/-- EXTSB: byte to word, of the word register (R167). -/
def execExtsb (d : RegNo) (s : State) : Res State := .next (s.setReg d (((s.reg d).extractLsb' 0 8).signExtend 16))

/-- EXTS: word to long (R167). -/
def execExts (d : RegNo) (s : State) : Res State := .next (s.setLongReg d ((s.reg (d + 1)).signExtend 32))

/-- EXTSL: long to quadruple (R167). -/
def execExtsl (d : RegNo) (s : State) : Res State := .next (s.setQuadReg d ((s.longReg (d + 2)).signExtend 64))

/-- NEGB (R170). -/
def execNegb (dst : Dst) (s : State) : Res State := negate .byte dst s

/-- NEG (R170). -/
def execNeg (dst : Dst) (s : State) : Res State := negate .word dst s

end Sys2Proof.Machine
end

