-- ==== Sys2Proof/Machine/Bit.lean ====
section
/-! DEFINITION. Bit manipulation (44_bit.md R204 to R209): BIT, RES, SET, TCC, TSET. -/

namespace Sys2Proof.Machine

/-- `v[b] <- 0` (R206). -/
def clearBit {w : Nat} (v : BitVec w) (b : Nat) : BitVec w := v &&& ~~~(BitVec.twoPow w b)

/-- `v[b] <- 1` (R207). -/
def setBit {w : Nat} (v : BitVec w) (b : Nat) : BitVec w := v ||| BitVec.twoPow w b

/-- `Z <- (v[b] == 0)`; nothing is written (R205). -/
def testBit (W : Width) (dst : Dst) (b : Nat) (s : State) : Res State :=
  (s.readDst W dst).andThen fun v => .next { s with fcw := { s.fcw with z := !v.getLsbD b } }

/-- `v <- Read(dst); v[b] <- 0; Write(dst, v)` (R206). -/
def resetBitOf (W : Width) (dst : Dst) (b : Nat) (s : State) : Res State :=
  (s.readDst W dst).andThen fun v => s.writeDst W dst (clearBit v b)

/-- `v <- Read(dst); v[b] <- 1; Write(dst, v)` (R207). -/
def setBitOf (W : Width) (dst : Dst) (b : Nat) (s : State) : Res State :=
  (s.readDst W dst).andThen fun v => s.writeDst W dst (setBit v b)

/-- The dynamic bit number: the low 3 bits of the register for a byte, the low 4 for a word (R204). -/
def State.dynamicBit (s : State) (W : Width) (k : RegNo) : Nat :=
  match W with
  | .byte => ((s.reg k).extractLsb' 0 3).toNat
  | .word | .long => ((s.reg k).extractLsb' 0 4).toNat

/-- `if cond(cc) then Reg(W,d)[0] <- 1`; a false condition leaves the destination (R208). -/
def testCondition (W : Width) (cc : Cond) (d : RegNo) (s : State) : State :=
  if condHolds s.fcw cc then s.setRegW W d (setBit (s.regW W d) 0) else s

/-- `v <- Read(dst); S <- v[W-1]; Write(dst, all ones)` (R209). -/
def testAndSet (W : Width) (dst : Dst) (s : State) : Res State :=
  s.modify W dst (fun _ => BitVec.allOnes W.bits) fun v => { s.fcw with s := v.msb }

/-- BITB, static (R205). -/
def execBitb (dst : Dst) (n : BitVec 3) (s : State) : Res State := testBit .byte dst n.toNat s

/-- BITB, dynamic (R205, R204). -/
def execBitbDyn (d r : RegNo) (s : State) : Res State := testBit .byte (.reg d) (s.dynamicBit .byte r) s

/-- BIT, static (R205). -/
def execBit (dst : Dst) (n : BitVec 4) (s : State) : Res State := testBit .word dst n.toNat s

/-- BIT, dynamic (R205, R204). -/
def execBitDyn (d r : RegNo) (s : State) : Res State := testBit .word (.reg d) (s.dynamicBit .word r) s

/-- RESB, static (R206). -/
def execResb (dst : Dst) (n : BitVec 3) (s : State) : Res State := resetBitOf .byte dst n.toNat s

/-- RESB, dynamic (R206, R204). -/
def execResbDyn (d r : RegNo) (s : State) : Res State := resetBitOf .byte (.reg d) (s.dynamicBit .byte r) s

/-- RES, static (R206). -/
def execRes (dst : Dst) (n : BitVec 4) (s : State) : Res State := resetBitOf .word dst n.toNat s

/-- RES, dynamic (R206, R204). -/
def execResDyn (d r : RegNo) (s : State) : Res State := resetBitOf .word (.reg d) (s.dynamicBit .word r) s

/-- SETB, static (R207). -/
def execSetb (dst : Dst) (n : BitVec 3) (s : State) : Res State := setBitOf .byte dst n.toNat s

/-- SETB, dynamic (R207, R204). -/
def execSetbDyn (d r : RegNo) (s : State) : Res State := setBitOf .byte (.reg d) (s.dynamicBit .byte r) s

/-- SET, static (R207). -/
def execSet (dst : Dst) (n : BitVec 4) (s : State) : Res State := setBitOf .word dst n.toNat s

/-- SET, dynamic (R207, R204). -/
def execSetDyn (d r : RegNo) (s : State) : Res State := setBitOf .word (.reg d) (s.dynamicBit .word r) s

/-- TCCB (R208). -/
def execTccb (cc : Cond) (d : RegNo) (s : State) : Res State := .next (testCondition .byte cc d s)

/-- TCC (R208). -/
def execTcc (cc : Cond) (d : RegNo) (s : State) : Res State := .next (testCondition .word cc d s)

/-- TSETB (R209). -/
def execTsetb (dst : Dst) (s : State) : Res State := testAndSet .byte dst s

/-- TSET (R209). -/
def execTset (dst : Dst) (s : State) : Res State := testAndSet .word dst s

end Sys2Proof.Machine
end

