-- ==== Sys2Proof/Machine/BlockString.lean ====
section
/-! DEFINITION. Block transfer and string compare (46_block_string.md R234 to R254): CPx, CPSx, LDx. One step is one
iteration (R236, D14): a repeating form that is not finished leaves the PC at itself. -/

namespace Sys2Proof.Machine

/-! ## Shared by the block, translate and block-I/O instructions -/

/-- `step`: plus or minus the element size (R235). -/
def blockStep (W : Width) (forward : Bool) : Word :=
  if forward then BitVec.ofNat 16 W.bytes else -(BitVec.ofNat 16 W.bytes)

/-- Some word register occurs twice among those an instruction names (R238, D17). -/
def overlap (regs : List RegNo) : Bool := !decide regs.Nodup

/-- `R[r] <- R[r] - 1; V <- (R[r] == 0)` (R235, R237). -/
def State.countDown (s : State) (r : RegNo) : State :=
  let v := s.reg r - 1
  { s.setReg r v with fcw := { s.fcw with pv := v == 0 } }

/-- The counter is exhausted (R236). -/
def State.exhausted (s : State) (r : RegNo) : Bool := s.reg r == 0

/-- A repeating two-word instruction that is not finished stays at its own address (R236). -/
def State.againUnless (s : State) (finished : Bool) : State := if finished then s else { s with pc := s.pc.add (-4) }

/-- The word register a compared register lies in (R238). Log 24. -/
def comparedReg (W : Width) (k : RegNo) : RegNo :=
  match W with
  | .byte => byteHome k
  | .word | .long => k

/-! ## Compare with a register -/

/-- Whether `cc` holds for the flags of `a - b` (R237, R252). -/
def compareHolds {w : Nat} (f : Fcw) (a b : BitVec w) (cc : Cond) : Bool := condHolds (f.arith (subW a b false)) cc

/-- Z as given; C and S are any value (R237, U1). -/
def State.compareFlags (s : State) (hit : Bool) : State :=
  State.freeS (State.freeC { s with fcw := { s.fcw with z := hit } })

/-- One iteration of CPD, CPI and their repeating forms (R252), and whether it stays (R236). -/
def compareElement (W : Width) (forward repeats : Bool) (d p r : RegNo) (cc : Cond) (s : State) : Res State :=
  if overlap (comparedReg W d :: r :: s.pointerRegs p) then .refused .registerOverlap
  else
    (s.read W (s.pointer p)).andThen fun m =>
    let hit := compareHolds s.fcw (s.regW W d) m cc
    let t := ((s.compareFlags hit).stepPointer p (blockStep W forward)).countDown r
    .next (t.againUnless (!repeats || hit || t.exhausted r))

/-! ## Compare two strings -/

/-- One iteration of CPSD, CPSI and their repeating forms: the element at `d` minus the element at `p` (R253). -/
def compareStrings (W : Width) (forward repeats : Bool) (d p r : RegNo) (cc : Cond) (s : State) : Res State :=
  if overlap (r :: s.pointerRegs d ++ s.pointerRegs p) then .refused .registerOverlap
  else
    (s.read W (s.pointer p)).andThen fun b =>
    (s.read W (s.pointer d)).andThen fun a =>
    let hit := compareHolds s.fcw a b cc
    let t := (((s.compareFlags hit).stepPointer d (blockStep W forward)).stepPointer p (blockStep W forward)).countDown r
    .next (t.againUnless (!repeats || hit || t.exhausted r))

/-! ## Block move -/

/-- One iteration of LDD, LDI and their repeating forms (R254); Z is any value (R237, U1). -/
def moveElement (W : Width) (forward repeats : Bool) (d p r : RegNo) (s : State) : Res State :=
  if overlap (r :: s.pointerRegs d ++ s.pointerRegs p) then .refused .registerOverlap
  else
    (s.read W (s.pointer p)).andThen fun v =>
    (s.store W (s.pointer d) v).andThen fun s =>
    let t := ((s.freeZ.stepPointer d (blockStep W forward)).stepPointer p (blockStep W forward)).countDown r
    .next (t.againUnless (!repeats || t.exhausted r))

/-! ## The instructions -/

/-- CPDB (R240). -/
def execCpdb (d p r : RegNo) (cc : Cond) (s : State) : Res State := compareElement .byte false false d p r cc s

/-- CPD (R240). -/
def execCpd (d p r : RegNo) (cc : Cond) (s : State) : Res State := compareElement .word false false d p r cc s

/-- CPDRB (R241). -/
def execCpdrb (d p r : RegNo) (cc : Cond) (s : State) : Res State := compareElement .byte false true d p r cc s

/-- CPDR (R241). -/
def execCpdr (d p r : RegNo) (cc : Cond) (s : State) : Res State := compareElement .word false true d p r cc s

/-- CPIB (R242). -/
def execCpib (d p r : RegNo) (cc : Cond) (s : State) : Res State := compareElement .byte true false d p r cc s

/-- CPI (R242). -/
def execCpi (d p r : RegNo) (cc : Cond) (s : State) : Res State := compareElement .word true false d p r cc s

/-- CPIRB (R243). -/
def execCpirb (d p r : RegNo) (cc : Cond) (s : State) : Res State := compareElement .byte true true d p r cc s

/-- CPIR (R243). -/
def execCpir (d p r : RegNo) (cc : Cond) (s : State) : Res State := compareElement .word true true d p r cc s

/-- CPSDB (R244). -/
def execCpsdb (d p r : RegNo) (cc : Cond) (s : State) : Res State := compareStrings .byte false false d p r cc s

/-- CPSD (R244). -/
def execCpsd (d p r : RegNo) (cc : Cond) (s : State) : Res State := compareStrings .word false false d p r cc s

/-- CPSDRB (R245). -/
def execCpsdrb (d p r : RegNo) (cc : Cond) (s : State) : Res State := compareStrings .byte false true d p r cc s

/-- CPSDR (R245). -/
def execCpsdr (d p r : RegNo) (cc : Cond) (s : State) : Res State := compareStrings .word false true d p r cc s

/-- CPSIB (R246). -/
def execCpsib (d p r : RegNo) (cc : Cond) (s : State) : Res State := compareStrings .byte true false d p r cc s

/-- CPSI (R246). -/
def execCpsi (d p r : RegNo) (cc : Cond) (s : State) : Res State := compareStrings .word true false d p r cc s

/-- CPSIRB (R247). -/
def execCpsirb (d p r : RegNo) (cc : Cond) (s : State) : Res State := compareStrings .byte true true d p r cc s

/-- CPSIR (R247). -/
def execCpsir (d p r : RegNo) (cc : Cond) (s : State) : Res State := compareStrings .word true true d p r cc s

/-- LDDB (R248). -/
def execLddb (d p r : RegNo) (s : State) : Res State := moveElement .byte false false d p r s

/-- LDD (R248). -/
def execLdd (d p r : RegNo) (s : State) : Res State := moveElement .word false false d p r s

/-- LDDRB (R249). -/
def execLddrb (d p r : RegNo) (s : State) : Res State := moveElement .byte false true d p r s

/-- LDDR (R249). -/
def execLddr (d p r : RegNo) (s : State) : Res State := moveElement .word false true d p r s

/-- LDIB (R250). -/
def execLdib (d p r : RegNo) (s : State) : Res State := moveElement .byte true false d p r s

/-- LDI (R250). -/
def execLdi (d p r : RegNo) (s : State) : Res State := moveElement .word true false d p r s

/-- LDIRB (R251). -/
def execLdirb (d p r : RegNo) (s : State) : Res State := moveElement .byte true true d p r s

/-- LDIR (R251). -/
def execLdir (d p r : RegNo) (s : State) : Res State := moveElement .word true true d p r s

end Sys2Proof.Machine
end

