-- ==== Sys2Proof/Machine/CpuControl.lean ====
section
/-! DEFINITION. CPU control (49_cpu_control.md R299 to R313): COMFLG, DI, EI, HALT, LDCTL, LDCTLB, LDPS, MBIT, MREQ, MRES,
MSET, NOP, RESFLG, SETFLG. -/

namespace Sys2Proof.Machine

/-- A stored word, whose low byte reads as any value when a bit under `reserved` was written as 1 (R304, U4). Log 16. -/
def State.lowByteRead (s : State) (stored reserved : Word) : Word × State :=
  if stored &&& reserved = 0 then (stored, s)
  else (stored.extractLsb' 8 8 ++ Config.freeValue 8 s.free, { s with free := s.free + 1 })

/-- The value LDCTL reads from a control register (R304, 10_state.md R33). REFRESH: the enable bit and a draw in the
other bits (D19). PSAP: the low byte by U4, all else as written. A register the variant lacks is refused (U14). Log 16, 26. -/
def readCtl (c : CtlReg) (s : State) : Res (Word × State) :=
  match c with
  | .fcw => .next (s.fcw.toWord, s)
  | .refresh =>
    .next ((s.refresh &&& 0x8000) ||| (Config.freeValue 16 s.free &&& 0x7FFF), { s with free := s.free + 1 })
  | .psapSeg => if s.isZ8001 then .next (s.lowByteRead s.psapSeg 0x80FF) else .refused .noSuchControlRegister
  | .psapOff => .next (s.lowByteRead s.psapOff 0x00FF)
  | .nspSeg => if s.isZ8001 then .next (s.nspSeg, s) else .refused .noSuchControlRegister
  | .nspOff => .next (s.nspOff, s)

/-- Write a control register (R304, 10_state.md R33, R35); one the variant lacks is refused (U14). Log 26. -/
def writeCtl (c : CtlReg) (v : Word) (s : State) : Res State :=
  match c with
  | .fcw => .next { s with fcw := .ofWord s.par v }
  | .refresh => .next { s with refresh := v }
  | .psapSeg => if s.isZ8001 then .next { s with psapSeg := v } else .refused .noSuchControlRegister
  | .psapOff => .next { s with psapOff := v }
  | .nspSeg => if s.isZ8001 then .next { s with nspSeg := v } else .refused .noSuchControlRegister
  | .nspOff => .next { s with nspOff := v }

/-- Load a program status from memory: all reads in the old mode, the FCW written last (R306, 10_state.md R29). -/
def loadProgramStatus (a : Addr) (s : State) : Res State :=
  if s.segmented then
    (s.readWord (a.add 2)).andThen fun f =>
    (s.readWord (a.add 4)).andThen fun sg =>
    (s.readWord (a.add 6)).andThen fun off =>
    .next { s with fcw := .ofWord s.par f, pc := Addr.ofWords sg off }
  else
    (s.readWord a).andThen fun f =>
    (s.readWord (a.add 2)).andThen fun off =>
    .next { s with fcw := .ofWord s.par f, pc := s.near off }

/-- MBIT: S is 1 when MI is high; Z is any value (R307, U1). -/
def multiMicroBit (s : State) : State :=
  let t := s.miSampled
  State.freeZ { t with fcw := { t.fcw with s := s.miLevel == .high } }

/-- MREQ: MI is sampled, and again after the delay, which leaves the register 0 (R308, D12). Log 22, 31. -/
def multiMicroRequest (d : RegNo) (s : State) : State :=
  let t := s.miSampled
  match s.miLevel with
  | .low => { t with fcw := { t.fcw with z := false, s := false }, mo := .high }
  | .high =>
    let granted := t.miLevel == .low
    let u := t.miSampled.setReg d 0
    { u with fcw := { u.fcw with z := true, s := granted }, mo := if granted then .low else .high }

/-- COMFLG (R300). -/
def execComflg (mask : BitVec 4) (s : State) : Res State := .next { s with fcw := s.fcw.mapMasked mask not }

/-- DI: the selected enable bits are cleared (R301). -/
def execDi (vi nvi : Bool) (s : State) : Res State :=
  privileged (.di vi nvi) (fun s =>
    .next { s with fcw := { s.fcw with vie := s.fcw.vie && !vi, nvie := s.fcw.nvie && !nvi } }) s

/-- EI: the selected enable bits are set (R302). -/
def execEi (vi nvi : Bool) (s : State) : Res State :=
  privileged (.ei vi nvi) (fun s =>
    .next { s with fcw := { s.fcw with vie := s.fcw.vie || vi, nvie := s.fcw.nvie || nvi } }) s

/-- HALT (R303). -/
def execHalt (s : State) : Res State := privileged .halt (fun s => .next { s with halted := true }) s

/-- LDCTL, control register to general register (R304). -/
def execLdctlRead (d : RegNo) (c : CtlReg) (s : State) : Res State :=
  privileged (.ldctlRead d c) (fun s => (readCtl c s).andThen fun (v, t) => .next (t.setReg d v)) s

/-- LDCTL, general register to control register (R304). -/
def execLdctlWrite (c : CtlReg) (r : RegNo) (s : State) : Res State :=
  privileged (.ldctlWrite c r) (fun s => writeCtl c (s.reg r) s) s

/-- LDCTLB, FLAGS to byte register; bits 1..0 read as 0 (R305). -/
def execLdctlbRead (d : RegNo) (s : State) : Res State := .next (s.setByteReg d (s.fcw.flags &&& 0xFC))

/-- LDCTLB, byte register to FLAGS (R305). -/
def execLdctlbWrite (r : RegNo) (s : State) : Res State := .next { s with fcw := s.fcw.withFlags (s.byteReg r) }

/-- LDPS (R306). -/
def execLdps (src : Mem) (s : State) : Res State := privileged (.ldps src) (fun s => loadProgramStatus (s.ea src) s) s

/-- MBIT (R307). -/
def execMbit (s : State) : Res State := privileged .mbit (fun s => .next (multiMicroBit s)) s

/-- MREQ (R308). -/
def execMreq (d : RegNo) (s : State) : Res State := privileged (.mreq d) (fun s => .next (multiMicroRequest d s)) s

/-- MRES (R309). -/
def execMres (s : State) : Res State := privileged .mres (fun s => .next { s with mo := .high }) s

/-- MSET (R310). -/
def execMset (s : State) : Res State := privileged .mset (fun s => .next { s with mo := .low }) s

/-- NOP (R311). -/
def execNop (s : State) : Res State := .next s

/-- RESFLG (R312). -/
def execResflg (mask : BitVec 4) (s : State) : Res State :=
  .next { s with fcw := s.fcw.mapMasked mask fun _ => false }

/-- SETFLG (R313). -/
def execSetflg (mask : BitVec 4) (s : State) : Res State := .next { s with fcw := s.fcw.mapMasked mask fun _ => true }

end Sys2Proof.Machine
end

