-- ==== Sys2Proof/Machine/Extended.lean ====
section
/-! DEFINITION. The extended-instruction space (30_encoding.md R133, 60_exceptions.md R331). -/

namespace Sys2Proof.Machine

/-- An extended-instruction word: with FCW.EPA = 0 the extended-instruction trap (60_exceptions.md R331); with
FCW.EPA = 1 it is refused, under one name where no unit is attached and under another where it would be handed to a unit
the spec does not describe (00_scope.md R8, D22, U22, parameter `EPA_PRESENT`). Log 25. -/
def execEpa (op : EpaOp) (x : Byte) (s : State) : Res State :=
  if s.fcw.epa then
    if s.par.epaPresent then .refused .extendedUnit else .refused .extendedInstruction
  else enter .extended (instrWord (.epa op x)) (s.trapPc (.epa op x)) s

end Sys2Proof.Machine
end

