-- ==== Sys2Proof/Machine/InputOutput.lean ====
section
/-! DEFINITION. Input and output (48_io.md R270 to R292), all privileged (R270). A port address is a 16-bit word in both
modes (R270). -/

namespace Sys2Proof.Machine

/-- The transferred value as an operand of width `W`; I/O has no long form (R270). -/
def fromIo (W : Width) (v : Word) : BitVec W.bits := v.setWidth W.bits

/-- An operand of width `W` as a transferred value. -/
def toIo {W : Width} (v : BitVec W.bits) : Word := v.setWidth 16

/-- `Reg(W,d) <- IORead(sp, port, SZ)` (R272, R274). -/
def input (space : IoSpace) (W : Width) (d : RegNo) (port : Word) (s : State) : State :=
  (s.ioReadDone space W port).setRegW W d (fromIo W s.ioAnswer)

/-- `IOWrite(sp, port, SZ, Reg(W,r))` (R273, R292). -/
def output (space : IoSpace) (W : Width) (port : Word) (r : RegNo) (s : State) : State :=
  s.ioWriteDone space W port (toIo (s.regW W r))

/-- One input iteration: `d` is the memory pointer, `p` the port register, `r` the counter; Z is any value (R271). -/
def inputElement (space : IoSpace) (W : Width) (forward repeats : Bool) (d p r : RegNo) (s : State) : Res State :=
  if overlap (r :: p :: s.pointerRegs d) then .refused .registerOverlap
  else
    ((s.ioReadDone space W (s.reg p)).store W (s.pointer d) (fromIo W s.ioAnswer)).andThen fun s =>
    let t := (s.freeZ.stepPointer d (blockStep W forward)).countDown r
    .next (t.againUnless (!repeats || t.exhausted r))

/-- One output iteration: `d` is the port register, `p` the memory pointer, `r` the counter; Z is any value (R271). -/
def outputElement (space : IoSpace) (W : Width) (forward repeats : Bool) (d p r : RegNo) (s : State) : Res State :=
  if overlap (r :: d :: s.pointerRegs p) then .refused .registerOverlap
  else
    (s.read W (s.pointer p)).andThen fun v =>
    let u := (s.ioWriteDone space W (s.reg d) (toIo v)).freeZ
    let t := (u.stepPointer p (blockStep W forward)).countDown r
    .next (t.againUnless (!repeats || t.exhausted r))

/-- INB (R272). -/
def execInpb (d : RegNo) (port : Port) (s : State) : Res State :=
  privileged (.inpb d port) (fun s => .next (input .normal .byte d (s.portOf port) s)) s

/-- IN (R272). -/
def execInp (d : RegNo) (port : Port) (s : State) : Res State :=
  privileged (.inp d port) (fun s => .next (input .normal .word d (s.portOf port) s)) s

/-- OUTB (R273). -/
def execOutb (port : Port) (r : RegNo) (s : State) : Res State :=
  privileged (.outb port r) (fun s => .next (output .normal .byte (s.portOf port) r s)) s

/-- OUT (R273). -/
def execOut (port : Port) (r : RegNo) (s : State) : Res State :=
  privileged (.out port r) (fun s => .next (output .normal .word (s.portOf port) r s)) s

/-- SINB (R274). -/
def execSinb (d : RegNo) (port : Word) (s : State) : Res State :=
  privileged (.sinb d port) (fun s => .next (input .special .byte d port s)) s

/-- SIN (R274). -/
def execSin (d : RegNo) (port : Word) (s : State) : Res State :=
  privileged (.sin d port) (fun s => .next (input .special .word d port s)) s

/-- SOUTB (R292). -/
def execSoutb (port : Word) (r : RegNo) (s : State) : Res State :=
  privileged (.soutb port r) (fun s => .next (output .special .byte port r s)) s

/-- SOUT (R292). -/
def execSout (port : Word) (r : RegNo) (s : State) : Res State :=
  privileged (.sout port r) (fun s => .next (output .special .word port r s)) s

/-- INDB (R275). -/
def execIndb (d p r : RegNo) (s : State) : Res State :=
  privileged (.indb d p r) (inputElement .normal .byte false false d p r) s

/-- IND (R275). -/
def execInd (d p r : RegNo) (s : State) : Res State :=
  privileged (.ind d p r) (inputElement .normal .word false false d p r) s

/-- INDRB (R276). -/
def execIndrb (d p r : RegNo) (s : State) : Res State :=
  privileged (.indrb d p r) (inputElement .normal .byte false true d p r) s

/-- INDR (R276). -/
def execIndr (d p r : RegNo) (s : State) : Res State :=
  privileged (.indr d p r) (inputElement .normal .word false true d p r) s

/-- INIB (R277). -/
def execInib (d p r : RegNo) (s : State) : Res State :=
  privileged (.inib d p r) (inputElement .normal .byte true false d p r) s

/-- INI (R277). -/
def execIni (d p r : RegNo) (s : State) : Res State :=
  privileged (.ini d p r) (inputElement .normal .word true false d p r) s

/-- INIRB (R278). -/
def execInirb (d p r : RegNo) (s : State) : Res State :=
  privileged (.inirb d p r) (inputElement .normal .byte true true d p r) s

/-- INIR (R278). -/
def execInir (d p r : RegNo) (s : State) : Res State :=
  privileged (.inir d p r) (inputElement .normal .word true true d p r) s

/-- OTDRB (R279). -/
def execOtdrb (d p r : RegNo) (s : State) : Res State :=
  privileged (.otdrb d p r) (outputElement .normal .byte false true d p r) s

/-- OTDR (R279). -/
def execOtdr (d p r : RegNo) (s : State) : Res State :=
  privileged (.otdr d p r) (outputElement .normal .word false true d p r) s

/-- OTIRB (R280). -/
def execOtirb (d p r : RegNo) (s : State) : Res State :=
  privileged (.otirb d p r) (outputElement .normal .byte true true d p r) s

/-- OTIR (R280). -/
def execOtir (d p r : RegNo) (s : State) : Res State :=
  privileged (.otir d p r) (outputElement .normal .word true true d p r) s

/-- OUTDB (R281). -/
def execOutdb (d p r : RegNo) (s : State) : Res State :=
  privileged (.outdb d p r) (outputElement .normal .byte false false d p r) s

/-- OUTD (R281). -/
def execOutd (d p r : RegNo) (s : State) : Res State :=
  privileged (.outd d p r) (outputElement .normal .word false false d p r) s

/-- OUTIB (R282). -/
def execOutib (d p r : RegNo) (s : State) : Res State :=
  privileged (.outib d p r) (outputElement .normal .byte true false d p r) s

/-- OUTI (R282). -/
def execOuti (d p r : RegNo) (s : State) : Res State :=
  privileged (.outi d p r) (outputElement .normal .word true false d p r) s

/-- SINDB (R283). -/
def execSindb (d p r : RegNo) (s : State) : Res State :=
  privileged (.sindb d p r) (inputElement .special .byte false false d p r) s

/-- SIND (R283). -/
def execSind (d p r : RegNo) (s : State) : Res State :=
  privileged (.sind d p r) (inputElement .special .word false false d p r) s

/-- SINDRB (R284). -/
def execSindrb (d p r : RegNo) (s : State) : Res State :=
  privileged (.sindrb d p r) (inputElement .special .byte false true d p r) s

/-- SINDR (R284). -/
def execSindr (d p r : RegNo) (s : State) : Res State :=
  privileged (.sindr d p r) (inputElement .special .word false true d p r) s

/-- SINIB (R285). -/
def execSinib (d p r : RegNo) (s : State) : Res State :=
  privileged (.sinib d p r) (inputElement .special .byte true false d p r) s

/-- SINI (R285). -/
def execSini (d p r : RegNo) (s : State) : Res State :=
  privileged (.sini d p r) (inputElement .special .word true false d p r) s

/-- SINIRB (R286). -/
def execSinirb (d p r : RegNo) (s : State) : Res State :=
  privileged (.sinirb d p r) (inputElement .special .byte true true d p r) s

/-- SINIR (R286). -/
def execSinir (d p r : RegNo) (s : State) : Res State :=
  privileged (.sinir d p r) (inputElement .special .word true true d p r) s

/-- SOUTDB (R292). -/
def execSoutdb (d p r : RegNo) (s : State) : Res State :=
  privileged (.soutdb d p r) (outputElement .special .byte false false d p r) s

/-- SOUTD (R292). -/
def execSoutd (d p r : RegNo) (s : State) : Res State :=
  privileged (.soutd d p r) (outputElement .special .word false false d p r) s

/-- SOUTIB (R292). -/
def execSoutib (d p r : RegNo) (s : State) : Res State :=
  privileged (.soutib d p r) (outputElement .special .byte true false d p r) s

/-- SOUTI (R292). -/
def execSouti (d p r : RegNo) (s : State) : Res State :=
  privileged (.souti d p r) (outputElement .special .word true false d p r) s

/-- SOTDRB (R292). -/
def execSotdrb (d p r : RegNo) (s : State) : Res State :=
  privileged (.sotdrb d p r) (outputElement .special .byte false true d p r) s

/-- SOTDR (R292). -/
def execSotdr (d p r : RegNo) (s : State) : Res State :=
  privileged (.sotdr d p r) (outputElement .special .word false true d p r) s

/-- SOTIRB (R292). -/
def execSotirb (d p r : RegNo) (s : State) : Res State :=
  privileged (.sotirb d p r) (outputElement .special .byte true true d p r) s

/-- SOTIR (R292). -/
def execSotir (d p r : RegNo) (s : State) : Res State :=
  privileged (.sotir d p r) (outputElement .special .word true true d p r) s

end Sys2Proof.Machine
end

