-- ==== Sys2Proof/Machine/LoadExchange.lean ====
section
/-! DEFINITION. Load and exchange (40_load_exchange.md R141 to R150): CLR, EX, LD, LDA, LDAR, LDK, LDM, LDR, POP, PUSH.
None of them changes a flag. -/

namespace Sys2Proof.Machine

/-- `Write(W, dst, 0)`; the destination is not read (R141). -/
def clear (W : Width) (dst : Dst) (s : State) : Res State := s.writeDst W dst 0

/-- `t <- Read(src); u <- Reg(d); Write(src, u); Reg(d) <- t` (R142). -/
def exchange (W : Width) (d : RegNo) (src : Dst) (s : State) : Res State :=
  (s.readDst W src).andThen fun t =>
  (s.writeDst W src (s.regW W d)).andThen fun s => .next (s.setRegW W d t)

/-- `Reg(W, d) <- Read(W, src)` (R143). -/
def load {W : Width} (d : RegNo) (src : Src W) (s : State) : Res State :=
  (s.readSrc src).andThen fun v => .next (s.setRegW W d v)

/-- `Reg(W, d) <- MemRead(a, W/8)` (R143, R148). -/
def loadFrom (W : Width) (d : RegNo) (a : Addr) (s : State) : Res State :=
  (s.read W a).andThen fun v => .next (s.setRegW W d v)

/-- The word registers an operand's address uses (R147). -/
def State.memRegs (s : State) : Mem → List RegNo
  | .ir p => s.pointerRegs p
  | .da _ => []
  | .x _ i => [i]

/-- `k` is among the registers LDM loads: `d` to `d + n`, with R0 after R15 (R147). -/
def ldmLoads (d : RegNo) (n : BitVec 4) (k : RegNo) : Bool := decide ((k - d).toNat ≤ n.toNat)

/-- Load `n` registers from ascending addresses; R0 follows R15 (R147). -/
def loadRegs : Nat → RegNo → Addr → State → Res State
  | 0, _, _, s => .next s
  | n + 1, k, a, s => (s.readWord a).andThen fun v => loadRegs n (k + 1) (a.add 2) (s.setReg k v)

/-- Store `n` registers at ascending addresses; R0 follows R15 (R147). -/
def storeRegs : Nat → RegNo → Addr → State → Res State
  | 0, _, _, s => .next s
  | n + 1, k, a, s => (s.store .word a (s.reg k)).andThen fun s => storeRegs n (k + 1) (a.add 2) s

/-- The word registers of an operand register of width `W` that `PUSH` or `POP` could overlap with (R149, R150). -/
def operandRegs (W : Width) (k : RegNo) : List RegNo :=
  match W with
  | .byte => [byteHome k]
  | .word => [k]
  | .long => [k, k + 1]

/-- An operand register overlaps the stack pointer used (R149, R150, U9). -/
def State.overlapsPointer (s : State) (W : Width) (k p : RegNo) : Bool :=
  (operandRegs W k).any fun r => (s.pointerRegs p).contains r

/-- `v <- MemRead(sp); sp <- sp +a W/8; Write(dst, v)`; an overlapping register is refused (R149, U9). Log 23. -/
def popTo (W : Width) (dst : Dst) (p : RegNo) (s : State) : Res State :=
  let place := s.place dst
  match place with
  | .reg k =>
    if s.overlapsPointer W k p then .refused .stackPointerOverlap
    else (s.pop W p).andThen fun (v, t) => t.writePlace W place v
  | .mem _ => (s.pop W p).andThen fun (v, t) => t.writePlace W place v

/-- `v <- Read(src); sp <- sp +a (-(W/8)); MemWrite(sp, v)`; an overlapping register is refused (R150, U9). Log 23. -/
def pushFrom {W : Width} (p : RegNo) (src : Src W) (s : State) : Res State :=
  match src with
  | .reg k =>
    if s.overlapsPointer W k p then .refused .stackPointerOverlap
    else s.push W p (s.regW W k)
  | .imm v => s.push W p v
  | .mem m => (s.read W (s.ea m)).andThen fun v => s.push W p v

/-- CLRB (R141). -/
def execClrb (dst : Dst) (s : State) : Res State := clear .byte dst s

/-- CLR (R141). -/
def execClr (dst : Dst) (s : State) : Res State := clear .word dst s

/-- EXB (R142). -/
def execExb (d : RegNo) (src : Dst) (s : State) : Res State := exchange .byte d src s

/-- EX (R142). -/
def execEx (d : RegNo) (src : Dst) (s : State) : Res State := exchange .word d src s

/-- LDB, register from R, IM, IR, DA, X (R143). -/
def execLdb (d : RegNo) (src : Src .byte) (s : State) : Res State := load d src s

/-- LDB, register from BA, BX (R143). -/
def execLdbBased (d : RegNo) (src : Based) (s : State) : Res State := loadFrom .byte d (s.eaBased src) s

/-- LDB, store to IR, DA, X (R143). -/
def execLdbStore (dst : Mem) (r : RegNo) (s : State) : Res State := s.store .byte (s.ea dst) (s.regW .byte r)

/-- LDB, store to BA, BX (R143). -/
def execLdbStoreBased (dst : Based) (r : RegNo) (s : State) : Res State := s.store .byte (s.eaBased dst) (s.regW .byte r)

/-- LDB, immediate to IR, DA, X (R143). -/
def execLdbStoreImm (dst : Mem) (v : BitVec 8) (s : State) : Res State := s.store .byte (s.ea dst) v

/-- LDB, the compact immediate form (R143). -/
def execLdbShort (d : RegNo) (v : Byte) (s : State) : Res State := .next (s.setByteReg d v)

/-- LD, register from R, IM, IR, DA, X (R143). -/
def execLd (d : RegNo) (src : Src .word) (s : State) : Res State := load d src s

/-- LD, register from BA, BX (R143). -/
def execLdBased (d : RegNo) (src : Based) (s : State) : Res State := loadFrom .word d (s.eaBased src) s

/-- LD, store to IR, DA, X (R143). -/
def execLdStore (dst : Mem) (r : RegNo) (s : State) : Res State := s.store .word (s.ea dst) (s.regW .word r)

/-- LD, store to BA, BX (R143). -/
def execLdStoreBased (dst : Based) (r : RegNo) (s : State) : Res State := s.store .word (s.eaBased dst) (s.regW .word r)

/-- LD, immediate to IR, DA, X (R143). -/
def execLdStoreImm (dst : Mem) (v : BitVec 16) (s : State) : Res State := s.store .word (s.ea dst) v

/-- LDL, register from R, IM, IR, DA, X (R143). -/
def execLdl (d : RegNo) (src : Src .long) (s : State) : Res State := load d src s

/-- LDL, register from BA, BX (R143). -/
def execLdlBased (d : RegNo) (src : Based) (s : State) : Res State := loadFrom .long d (s.eaBased src) s

/-- LDL, store to IR, DA, X (R143). -/
def execLdlStore (dst : Mem) (r : RegNo) (s : State) : Res State := s.store .long (s.ea dst) (s.regW .long r)

/-- LDL, store to BA, BX (R143). -/
def execLdlStoreBased (dst : Based) (r : RegNo) (s : State) : Res State := s.store .long (s.eaBased dst) (s.regW .long r)

/-- LDA of DA: no memory access (R144). -/
def execLda (d : RegNo) (addr : AddrField) (s : State) : Res State := .next (s.loadAddress d (s.fieldAddr addr))

/-- LDA of X: no memory access (R144). -/
def execLdaIndexed (d : RegNo) (addr : AddrField) (x : RegNo) (s : State) : Res State := .next (s.loadAddress d (s.ea (.x addr x)))

/-- LDA of BA, BX: no memory access (R144). -/
def execLdaBased (d : RegNo) (src : Based) (s : State) : Res State := .next (s.loadAddress d (s.eaBased src))

/-- LDAR (R145). -/
def execLdar (d : RegNo) (disp : Word) (s : State) : Res State := .next (s.loadAddress d (s.eaRelative disp))

/-- LDK: zero-extended (R146). -/
def execLdk (d : RegNo) (n : BitVec 4) (s : State) : Res State := .next (s.setReg d (n.setWidth 16))

/-- LDM, memory to registers; loading a register its address uses is refused (R147, U8). Log 23. -/
def execLdmLoad (d : RegNo) (src : Mem) (n : BitVec 4) (s : State) : Res State :=
  if (s.memRegs src).any (ldmLoads d n) then .refused .ldmOverlap
  else loadRegs (n.toNat + 1) d (s.ea src) s

/-- LDM, registers to memory (R147). -/
def execLdmStore (dst : Mem) (r : RegNo) (n : BitVec 4) (s : State) : Res State := storeRegs (n.toNat + 1) r (s.ea dst) s

/-- LDRB, load (R148). -/
def execLdrb (d : RegNo) (disp : Word) (s : State) : Res State := loadFrom .byte d (s.eaRelative disp) s

/-- LDRB, store (R148). -/
def execLdrbStore (disp : Word) (r : RegNo) (s : State) : Res State := s.store .byte (s.eaRelative disp) (s.regW .byte r)

/-- LDR, load (R148). -/
def execLdr (d : RegNo) (disp : Word) (s : State) : Res State := loadFrom .word d (s.eaRelative disp) s

/-- LDR, store (R148). -/
def execLdrStore (disp : Word) (r : RegNo) (s : State) : Res State := s.store .word (s.eaRelative disp) (s.regW .word r)

/-- LDRL, load (R148). -/
def execLdrl (d : RegNo) (disp : Word) (s : State) : Res State := loadFrom .long d (s.eaRelative disp) s

/-- LDRL, store (R148). -/
def execLdrlStore (disp : Word) (r : RegNo) (s : State) : Res State := s.store .long (s.eaRelative disp) (s.regW .long r)

/-- POP (R149). -/
def execPop (dst : Dst) (p : RegNo) (s : State) : Res State := popTo .word dst p s

/-- POPL (R149). -/
def execPopl (dst : Dst) (p : RegNo) (s : State) : Res State := popTo .long dst p s

/-- PUSH (R150). -/
def execPush (p : RegNo) (src : Src .word) (s : State) : Res State := pushFrom p src s

/-- PUSHL (R150). -/
def execPushl (p : RegNo) (src : Dst) (s : State) : Res State := pushFrom (W := .long) p src.toSrc s

end Sys2Proof.Machine
end

