-- ==== Sys2Proof/Machine/Logical.lean ====
section
/-! DEFINITION. Logical instructions (42_logical.md R180 to R185): AND, COM, OR, TEST, XOR. The flags are `LogicFlags`
of R180. -/

namespace Sys2Proof.Machine

/-- `r <- f(Reg(W,d), b); Reg(W,d) <- r`, and the flags (R180, R181, R183, R185). -/
def logicTo (W : Width) (d : RegNo) (r : BitVec W.bits) (s : State) : State :=
  { s.setRegW W d r with fcw := s.fcw.logic W r }

/-- `r <- Read(W, dst)`; only the flags are written (R184). -/
def testDst (W : Width) (dst : Dst) (s : State) : Res State :=
  (s.readDst W dst).andThen fun v => .next { s with fcw := s.fcw.logic W v }

/-- `r <- not Read(W, dst); Write(W, dst, r)` (R182). -/
def complement (W : Width) (dst : Dst) (s : State) : Res State :=
  s.modify W dst (fun v => ~~~v) fun v => s.fcw.logic W (~~~v)

/-- ANDB (R181). -/
def execAndb (d : RegNo) (src : Src .byte) (s : State) : Res State :=
  (s.readSrc src).andThen fun v => .next (logicTo .byte d (s.regW .byte d &&& v) s)

/-- AND (R181). -/
def execAnd (d : RegNo) (src : Src .word) (s : State) : Res State :=
  (s.readSrc src).andThen fun v => .next (logicTo .word d (s.regW .word d &&& v) s)

/-- ORB (R183). -/
def execOrb (d : RegNo) (src : Src .byte) (s : State) : Res State :=
  (s.readSrc src).andThen fun v => .next (logicTo .byte d (s.regW .byte d ||| v) s)

/-- OR (R183). -/
def execOr (d : RegNo) (src : Src .word) (s : State) : Res State :=
  (s.readSrc src).andThen fun v => .next (logicTo .word d (s.regW .word d ||| v) s)

/-- XORB (R185). -/
def execXorb (d : RegNo) (src : Src .byte) (s : State) : Res State :=
  (s.readSrc src).andThen fun v => .next (logicTo .byte d (s.regW .byte d ^^^ v) s)

/-- XOR (R185). -/
def execXor (d : RegNo) (src : Src .word) (s : State) : Res State :=
  (s.readSrc src).andThen fun v => .next (logicTo .word d (s.regW .word d ^^^ v) s)

/-- COMB (R182). -/
def execComb (dst : Dst) (s : State) : Res State := complement .byte dst s

/-- COM (R182). -/
def execCom (dst : Dst) (s : State) : Res State := complement .word dst s

/-- TESTB (R184). -/
def execTestb (dst : Dst) (s : State) : Res State := testDst .byte dst s

/-- TEST (R184). -/
def execTest (dst : Dst) (s : State) : Res State := testDst .word dst s

/-- TESTL (R184). -/
def execTestl (dst : Dst) (s : State) : Res State := testDst .long dst s

end Sys2Proof.Machine
end

