-- ==== Sys2Proof/Machine/ProgramControl.lean ====
section
/-! DEFINITION. Program control (43_program_control.md R189 to R197): CALL, CALR, DJNZ, IRET, JP, JR, RET, SC. There are no
delay slots (R189). -/

namespace Sys2Proof.Machine

/-- `PC <- target`. -/
def State.jump (s : State) (a : Addr) : State := { s with pc := a }

/-- `PC +a k` in the PC's segment (R191, R192, R195). -/
def State.relative (s : State) (k : Word) : Addr := s.pc.add k

/-- `PushAddr(SP, PC); PC <- t`, with the target computed before the push (R190, R191). -/
def callTo (t : Addr) (s : State) : Res State := (s.pushAddr s.pc).andThen fun s => .next (s.jump t)

/-- `v <- Reg(W,r) - 1; Reg(W,r) <- v; if v != 0 then PC <- PC +a (-2*p)` (R192). -/
def decrementAndJump (W : Width) (r : RegNo) (p : BitVec 7) (s : State) : State :=
  let v := s.regW W r - 1
  let t := s.setRegW W r v
  if v = 0 then t else t.jump (t.relative (-(2 * p.setWidth 16)))

/-- CALL (R190). -/
def execCall (dst : Mem) (s : State) : Res State := callTo (s.ea dst) s

/-- CALR: the displacement is doubled and subtracted (R191). -/
def execCalr (p : BitVec 12) (s : State) : Res State := callTo (s.relative (-(2 * p.signExtend 16))) s

/-- DBJNZ (R192). -/
def execDbjnz (r : RegNo) (p : BitVec 7) (s : State) : Res State := .next (decrementAndJump .byte r p s)

/-- DJNZ (R192). -/
def execDjnz (r : RegNo) (p : BitVec 7) (s : State) : Res State := .next (decrementAndJump .word r p s)

/-- IRET, privileged (R193). -/
def execIret (s : State) : Res State := privileged .iret returnFromException s

/-- JP (R194). -/
def execJp (cc : Cond) (dst : Mem) (s : State) : Res State :=
  .next (if condHolds s.fcw cc then s.jump (s.ea dst) else s)

/-- JR: the displacement is doubled and added (R195). -/
def execJr (cc : Cond) (p : BitVec 8) (s : State) : Res State :=
  .next (if condHolds s.fcw cc then s.jump (s.relative (2 * p.signExtend 16)) else s)

/-- RET: nothing is popped if the condition does not hold (R196). -/
def execRet (cc : Cond) (s : State) : Res State :=
  if condHolds s.fcw cc then s.popAddr.andThen fun (a, t) => .next (t.jump a) else .next s

/-- SC: the system-call trap, in either mode; the saved PC is that of the next instruction (R197, 60_exceptions.md R333). The
pushes are its stores: one into the word right after it is refused, as a CALL's is (20_memory.md R82, U20). Log 10. -/
def execSc (v : Byte) (s : State) : Res State :=
  if s.touchesNext s.entryFrame s.entryBytes then .fault .storeIntoNextWord
  else enter .systemCall (instrWord (.sc v)) s.pc s

end Sys2Proof.Machine
end

