-- ==== Sys2Proof/Machine/RotateShift.lean ====
section
/-! DEFINITION. Rotates and shifts (45_rotate_shift.md R212 to R227): RL, RLC, RLDB, RR, RRC, RRDB, SDA, SDL, SLA, SLL, SRA,
SRL. Every destination is a register (R212). -/

namespace Sys2Proof.Machine

/-! ## One-position steps (R215) -/

/-- A value, the carry out of the last step, and whether a step changed the sign bit (R215). -/
structure Shifted (w : Nat) where
  v       : BitVec w
  carry   : Bool
  changed : Bool
  deriving DecidableEq, Repr

/-- A value shifted left by one, with a bit entering at the bottom. -/
def shiftIn {w : Nat} (v : BitVec w) (low : Bool) : BitVec w := (v <<< 1) ||| (BitVec.ofBool low).setWidth w

/-- A value shifted right by one, with a bit entering at the top. -/
def shiftDown {w : Nat} (v : BitVec w) (top : Bool) : BitVec w :=
  (v >>> 1) ||| (if top then BitVec.twoPow w (w - 1) else 0)

/-- `rotl1` (R215). -/
def rotl1 {w : Nat} (v : BitVec w) : BitVec w := shiftIn v v.msb

/-- `rotr1` (R215). -/
def rotr1 {w : Nat} (v : BitVec w) : BitVec w := shiftDown v (v.getLsbD 0)

/-- `rotlc1` (R215). -/
def rotlc1 {w : Nat} (v : BitVec w) (c : Bool) : BitVec w := shiftIn v c

/-- `rotrc1` (R215). -/
def rotrc1 {w : Nat} (v : BitVec w) (c : Bool) : BitVec w := shiftDown v c

/-- `shl1` (R215). -/
def shl1 {w : Nat} (v : BitVec w) : BitVec w := shiftIn v false

/-- `shrl1` (R215). -/
def shrl1 {w : Nat} (v : BitVec w) : BitVec w := shiftDown v false

/-- `shra1` (R215). -/
def shra1 {w : Nat} (v : BitVec w) : BitVec w := shiftDown v v.msb

/-- One step to the left: the carry out is the old most significant bit (R215). -/
def stepLeft {w : Nat} (next : BitVec w → Bool → BitVec w) (x : Shifted w) : Shifted w :=
  let v := next x.v x.carry
  ⟨v, x.v.msb, x.changed || v.msb != x.v.msb⟩

/-- One step to the right: the carry out is the old least significant bit (R215). -/
def stepRight {w : Nat} (next : BitVec w → Bool → BitVec w) (x : Shifted w) : Shifted w :=
  let v := next x.v x.carry
  ⟨v, x.v.getLsbD 0, x.changed || v.msb != x.v.msb⟩

/-- `n` steps (R215). -/
def steps {w : Nat} (step : Shifted w → Shifted w) : Nat → Shifted w → Shifted w
  | 0, x => x
  | n + 1, x => steps step n (step x)

/-- The left step of SLA, SLL, SDA and SDL (R215). -/
def leftShift {w : Nat} : Shifted w → Shifted w := stepLeft fun v _ => shl1 v

/-- The right step of SRA and SDA (R215). -/
def arithRight {w : Nat} : Shifted w → Shifted w := stepRight fun v _ => shra1 v

/-- The right step of SRL and SDL (R215). -/
def logicRight {w : Nat} : Shifted w → Shifted w := stepRight fun v _ => shrl1 v

/-! ## Rotates -/

/-- The P/V flag of a rotate: whether the sign changed; after two steps that both change it, any value (R213, U11).
Log 14. -/
def rotatePv {w : Nat} (step : Shifted w → Shifted w) (twice : Bool) (x : Shifted w) (free : Nat) : Bool :=
  if twice && (step x).v.msb != x.v.msb && (step (step x)).v.msb != (step x).v.msb then Config.freeBit free
  else (steps step (if twice then 2 else 1) x).changed

/-- The number of free values drawn after a rotate (U11). -/
def rotateFree {w : Nat} (step : Shifted w → Shifted w) (twice : Bool) (x : Shifted w) (free : Nat) : Nat :=
  if twice && (step x).v.msb != x.v.msb && (step (step x)).v.msb != (step x).v.msb then free + 1 else free

/-- A rotate of a register: result, C, Z, S, P/V (R213, R216, R217, R219, R220). -/
def rotate (W : Width) (step : Shifted W.bits → Shifted W.bits) (d : RegNo) (twice : Bool) (s : State) : State :=
  let x : Shifted W.bits := ⟨s.regW W d, s.fcw.c, false⟩
  let y := steps step (if twice then 2 else 1) x
  { s.setRegW W d y.v with
      fcw := { s.fcw.setZS y.v with c := y.carry, pv := rotatePv step twice x s.free }
      free := rotateFree step twice x s.free }

/-- The result of a digit rotate, with Z from the link byte and S any value (R218, R221). -/
def digitRotate (l r : RegNo) (link src : Byte) (s : State) : State :=
  State.freeS { (s.setByteReg r src).setByteReg l link with fcw := { s.fcw with z := link == 0 } }

/-! ## Shifts -/

/-- The C flag of a shift by `n`: the last bit moved out; after a shift by 0 any value (R214, U1). -/
def shiftC (n : Nat) (carry : Bool) (free : Nat) : Bool := if n = 0 then Config.freeBit free else carry

/-- An arithmetic shift by `n` steps of a register. P/V is `pv` of the steps (R214, R222, R224, R226). -/
def arithShift (W : Width) (step : Shifted W.bits → Shifted W.bits) (left : Bool) (d : RegNo) (n : Nat) (s : State) :
    State :=
  let y := steps step n ⟨s.regW W d, false, false⟩
  { s.setRegW W d y.v with
      fcw := { s.fcw.setZS y.v with c := shiftC n y.carry s.free, pv := left && y.changed }
      free := if n = 0 then s.free + 1 else s.free }

/-- A logical shift by `n` steps of a register; P/V is any value (R214, R223, R225, R227, U1). -/
def logicShift (W : Width) (step : Shifted W.bits → Shifted W.bits) (d : RegNo) (n : Nat) (s : State) : State :=
  let y := steps step n ⟨s.regW W d, false, false⟩
  { s.setRegW W d y.v with
      fcw := { s.fcw.setZS y.v with c := shiftC n y.carry s.free, pv := Config.freeBit (s.free + 1) }
      free := s.free + 2 }

/-- A dynamic shift whose count is out of range: the result, C, Z, S and P/V are any value (D13, U7). Log 12. -/
def shiftOutOfRange (W : Width) (d : RegNo) (s : State) : State :=
  { s.setRegW W d (Config.freeValue W.bits s.free) with
      fcw := { s.fcw with c := Config.freeBit (s.free + 1), z := Config.freeBit (s.free + 2),
                          s := Config.freeBit (s.free + 3), pv := Config.freeBit (s.free + 4) }
      free := s.free + 5 }

/-- SDA: left for a count of at least 0, right for a negative one (R222). -/
def dynamicArith (W : Width) (d r : RegNo) (s : State) : State :=
  let k := (s.reg r).toInt
  if k < -(W.bits : Int) ∨ (W.bits : Int) < k then shiftOutOfRange W d s
  else if 0 ≤ k then arithShift W leftShift true d k.toNat s
  else arithShift W arithRight false d (-k).toNat s

/-- SDL: left for a count of at least 0, right for a negative one (R223). -/
def dynamicLogic (W : Width) (d r : RegNo) (s : State) : State :=
  let k := (s.reg r).toInt
  if k < -(W.bits : Int) ∨ (W.bits : Int) < k then shiftOutOfRange W d s
  else if 0 ≤ k then logicShift W leftShift d k.toNat s
  else logicShift W logicRight d (-k).toNat s

/-! ## The instructions -/

/-- RLB (R216). -/
def execRlb (d : RegNo) (twice : Bool) (s : State) : Res State :=
  .next (rotate .byte (stepLeft fun v _ => rotl1 v) d twice s)

/-- RL (R216). -/
def execRl (d : RegNo) (twice : Bool) (s : State) : Res State :=
  .next (rotate .word (stepLeft fun v _ => rotl1 v) d twice s)

/-- RLCB (R217). -/
def execRlcb (d : RegNo) (twice : Bool) (s : State) : Res State := .next (rotate .byte (stepLeft rotlc1) d twice s)

/-- RLC (R217). -/
def execRlc (d : RegNo) (twice : Bool) (s : State) : Res State := .next (rotate .word (stepLeft rotlc1) d twice s)

/-- RRB (R219). -/
def execRrb (d : RegNo) (twice : Bool) (s : State) : Res State :=
  .next (rotate .byte (stepRight fun v _ => rotr1 v) d twice s)

/-- RR (R219). -/
def execRr (d : RegNo) (twice : Bool) (s : State) : Res State :=
  .next (rotate .word (stepRight fun v _ => rotr1 v) d twice s)

/-- RRCB (R220). -/
def execRrcb (d : RegNo) (twice : Bool) (s : State) : Res State := .next (rotate .byte (stepRight rotrc1) d twice s)

/-- RRC (R220). -/
def execRrc (d : RegNo) (twice : Bool) (s : State) : Res State := .next (rotate .word (stepRight rotrc1) d twice s)

/-- RLDB: link, source; the same register for both is refused (R218, U12). Log 23. -/
def execRldb (l r : RegNo) (s : State) : Res State :=
  if l = r then .refused .sameDigitRegister
  else
    let x := s.byteReg l
    let y := s.byteReg r
    .next (digitRotate l r (x.extractLsb' 4 4 ++ y.extractLsb' 4 4) (y.extractLsb' 0 4 ++ x.extractLsb' 0 4) s)

/-- RRDB: link, source; the same register for both is refused (R221, U12). Log 23. -/
def execRrdb (l r : RegNo) (s : State) : Res State :=
  if l = r then .refused .sameDigitRegister
  else
    let x := s.byteReg l
    let y := s.byteReg r
    .next (digitRotate l r (x.extractLsb' 4 4 ++ y.extractLsb' 0 4) (x.extractLsb' 0 4 ++ y.extractLsb' 4 4) s)

/-- SDAB (R222). -/
def execSdab (d r : RegNo) (s : State) : Res State := .next (dynamicArith .byte d r s)

/-- SDA (R222). -/
def execSda (d r : RegNo) (s : State) : Res State := .next (dynamicArith .word d r s)

/-- SDAL (R222). -/
def execSdal (d r : RegNo) (s : State) : Res State := .next (dynamicArith .long d r s)

/-- SDLB (R223). -/
def execSdlb (d r : RegNo) (s : State) : Res State := .next (dynamicLogic .byte d r s)

/-- SDL (R223). -/
def execSdl (d r : RegNo) (s : State) : Res State := .next (dynamicLogic .word d r s)

/-- SDLL (R223). -/
def execSdll (d r : RegNo) (s : State) : Res State := .next (dynamicLogic .long d r s)

/-- SLAB (R224). -/
def execSlab (d : RegNo) (n : Nat) (s : State) : Res State := .next (arithShift .byte leftShift true d n s)

/-- SLA (R224). -/
def execSla (d : RegNo) (n : Nat) (s : State) : Res State := .next (arithShift .word leftShift true d n s)

/-- SLAL (R224). -/
def execSlal (d : RegNo) (n : Nat) (s : State) : Res State := .next (arithShift .long leftShift true d n s)

/-- SLLB (R225). -/
def execSllb (d : RegNo) (n : Nat) (s : State) : Res State := .next (logicShift .byte leftShift d n s)

/-- SLL (R225). -/
def execSll (d : RegNo) (n : Nat) (s : State) : Res State := .next (logicShift .word leftShift d n s)

/-- SLLL (R225). -/
def execSlll (d : RegNo) (n : Nat) (s : State) : Res State := .next (logicShift .long leftShift d n s)

/-- SRAB (R226). -/
def execSrab (d : RegNo) (n : Nat) (s : State) : Res State := .next (arithShift .byte arithRight false d n s)

/-- SRA (R226). -/
def execSra (d : RegNo) (n : Nat) (s : State) : Res State := .next (arithShift .word arithRight false d n s)

/-- SRAL (R226). -/
def execSral (d : RegNo) (n : Nat) (s : State) : Res State := .next (arithShift .long arithRight false d n s)

/-- SRLB (R227). -/
def execSrlb (d : RegNo) (n : Nat) (s : State) : Res State := .next (logicShift .byte logicRight d n s)

/-- SRL (R227). -/
def execSrl (d : RegNo) (n : Nat) (s : State) : Res State := .next (logicShift .word logicRight d n s)

/-- SRLL (R227). -/
def execSrll (d : RegNo) (n : Nat) (s : State) : Res State := .next (logicShift .long logicRight d n s)

end Sys2Proof.Machine
end

