-- ==== Sys2Proof/Machine/Translate.lean ====
section
/-! DEFINITION. Translate and translate-and-test (47_translate.md R255 to R268): TRx, TRTx. One step is one iteration
(46_block_string.md R236). -/

namespace Sys2Proof.Machine

/-- `Lookup(tbl, b) = MemRead(tbl +a unsigned(b), 1)` (R255). -/
def State.lookup (s : State) (table : RegNo) (b : Byte) : Res Byte := s.readByte ((s.pointer table).add (b.setWidth 16))

/-- RH1 as a byte register. -/
def rh1 : RegNo := 1

/-- The word registers that must be separate: both pointers, the counter, and R1 (in segmented mode RR0) (R256, D17).
Log 24. -/
def State.translateRegs (s : State) (p table r : RegNo) : List RegNo :=
  r :: (s.pointerRegs p ++ s.pointerRegs table ++ if s.segmented then [0, 1] else [1])

/-- RH1 is any value (R256, U13). Log 11. -/
def State.freeRh1 (s : State) : State := { s.setByteReg rh1 (Config.freeValue 8 s.free) with free := s.free + 1 }

/-- One iteration of TRDB, TRIB and their repeating forms (R266); Z and RH1 are any value (R257, U1, U13). -/
def translateElement (forward repeats : Bool) (p table r : RegNo) (s : State) : Res State :=
  if overlap (s.translateRegs p table r) then .refused .registerOverlap
  else
    (s.readByte (s.pointer p)).andThen fun b =>
    (s.lookup table b).andThen fun v =>
    (s.store .byte (s.pointer p) v).andThen fun s =>
    let t := ((s.freeZ.freeRh1).stepPointer p (blockStep .byte forward)).countDown r
    .next (t.againUnless (!repeats || t.exhausted r))

/-- One iteration of TRTDB, TRTIB and their repeating forms: finished when the table entry is not zero or the counter is
exhausted (R267). -/
def translateTest (forward repeats : Bool) (p table r : RegNo) (s : State) : Res State :=
  if overlap (s.translateRegs p table r) then .refused .registerOverlap
  else
    (s.readByte (s.pointer p)).andThen fun b =>
    (s.lookup table b).andThen fun v =>
    let z := v == 0
    let u := { s.setByteReg rh1 v with fcw := { s.fcw with z := z } }
    let t := (u.stepPointer p (blockStep .byte forward)).countDown r
    .next (t.againUnless (!repeats || !z || t.exhausted r))

/-- TRDB (R258). -/
def execTrdb (p table r : RegNo) (s : State) : Res State := translateElement false false p table r s

/-- TRDRB (R259). -/
def execTrdrb (p table r : RegNo) (s : State) : Res State := translateElement false true p table r s

/-- TRIB (R260). -/
def execTrib (p table r : RegNo) (s : State) : Res State := translateElement true false p table r s

/-- TRIRB (R261). -/
def execTrirb (p table r : RegNo) (s : State) : Res State := translateElement true true p table r s

/-- TRTDB (R262). -/
def execTrtdb (p table r : RegNo) (s : State) : Res State := translateTest false false p table r s

/-- TRTDRB (R263). -/
def execTrtdrb (p table r : RegNo) (s : State) : Res State := translateTest false true p table r s

/-- TRTIB (R264). -/
def execTrtib (p table r : RegNo) (s : State) : Res State := translateTest true false p table r s

/-- TRTIRB (R265). -/
def execTrtirb (p table r : RegNo) (s : State) : Res State := translateTest true true p table r s

end Sys2Proof.Machine
end

