-- ==== Sys2Proof/Machine/Dispatch.lean ====
section
/-! DEFINITION. One arm per constructor of Instr: the call of its meaning. -/

namespace Sys2Proof.Machine

def exec (i : Instr) (s : State) : Host.Outcome State Fault Refusal :=
  match i with
  -- Load and exchange (40_load_exchange.md)
  | .clrb dst => Sys2Proof.Machine.execClrb dst s
  | .clr dst => Sys2Proof.Machine.execClr dst s
  | .exb d src => Sys2Proof.Machine.execExb d src s
  | .ex d src => Sys2Proof.Machine.execEx d src s
  | .ldb d src => Sys2Proof.Machine.execLdb d src s
  | .ldbBased d src => Sys2Proof.Machine.execLdbBased d src s
  | .ldbStore dst k => Sys2Proof.Machine.execLdbStore dst k s
  | .ldbStoreBased dst k => Sys2Proof.Machine.execLdbStoreBased dst k s
  | .ldbStoreImm dst v => Sys2Proof.Machine.execLdbStoreImm dst v s
  | .ldbShort d v => Sys2Proof.Machine.execLdbShort d v s
  | .ld d src => Sys2Proof.Machine.execLd d src s
  | .ldBased d src => Sys2Proof.Machine.execLdBased d src s
  | .ldStore dst k => Sys2Proof.Machine.execLdStore dst k s
  | .ldStoreBased dst k => Sys2Proof.Machine.execLdStoreBased dst k s
  | .ldStoreImm dst v => Sys2Proof.Machine.execLdStoreImm dst v s
  | .ldl d src => Sys2Proof.Machine.execLdl d src s
  | .ldlBased d src => Sys2Proof.Machine.execLdlBased d src s
  | .ldlStore dst k => Sys2Proof.Machine.execLdlStore dst k s
  | .ldlStoreBased dst k => Sys2Proof.Machine.execLdlStoreBased dst k s
  | .lda d addr => Sys2Proof.Machine.execLda d addr s
  | .ldaIndexed d addr x => Sys2Proof.Machine.execLdaIndexed d addr x s
  | .ldaBased d src => Sys2Proof.Machine.execLdaBased d src s
  | .ldar d disp => Sys2Proof.Machine.execLdar d disp s
  | .ldk d n => Sys2Proof.Machine.execLdk d n s
  | .ldmLoad d src n => Sys2Proof.Machine.execLdmLoad d src n s
  | .ldmStore dst k n => Sys2Proof.Machine.execLdmStore dst k n s
  | .ldrb d disp => Sys2Proof.Machine.execLdrb d disp s
  | .ldrbStore disp k => Sys2Proof.Machine.execLdrbStore disp k s
  | .ldr d disp => Sys2Proof.Machine.execLdr d disp s
  | .ldrStore disp k => Sys2Proof.Machine.execLdrStore disp k s
  | .ldrl d disp => Sys2Proof.Machine.execLdrl d disp s
  | .ldrlStore disp k => Sys2Proof.Machine.execLdrlStore disp k s
  | .pop dst k => Sys2Proof.Machine.execPop dst k s
  | .popl dst k => Sys2Proof.Machine.execPopl dst k s
  | .push d src => Sys2Proof.Machine.execPush d src s
  | .pushl d src => Sys2Proof.Machine.execPushl d src s
  -- Arithmetic (41_arithmetic.md)
  | .adcb d k => Sys2Proof.Machine.execAdcb d k s
  | .adc d k => Sys2Proof.Machine.execAdc d k s
  | .sbcb d k => Sys2Proof.Machine.execSbcb d k s
  | .sbc d k => Sys2Proof.Machine.execSbc d k s
  | .addb d src => Sys2Proof.Machine.execAddb d src s
  | .add d src => Sys2Proof.Machine.execAdd d src s
  | .addl d src => Sys2Proof.Machine.execAddl d src s
  | .subb d src => Sys2Proof.Machine.execSubb d src s
  | .sub d src => Sys2Proof.Machine.execSub d src s
  | .subl d src => Sys2Proof.Machine.execSubl d src s
  | .cpb d src => Sys2Proof.Machine.execCpb d src s
  | .cp d src => Sys2Proof.Machine.execCp d src s
  | .cpl d src => Sys2Proof.Machine.execCpl d src s
  | .cpbImm dst v => Sys2Proof.Machine.execCpbImm dst v s
  | .cpImm dst v => Sys2Proof.Machine.execCpImm dst v s
  | .dab d => Sys2Proof.Machine.execDab d s
  | .incb dst n => Sys2Proof.Machine.execIncb dst n s
  | .inc dst n => Sys2Proof.Machine.execInc dst n s
  | .decb dst n => Sys2Proof.Machine.execDecb dst n s
  | .dec dst n => Sys2Proof.Machine.execDec dst n s
  | .mult d src => Sys2Proof.Machine.execMult d src s
  | .multl d src => Sys2Proof.Machine.execMultl d src s
  | .div d src => Sys2Proof.Machine.execDiv d src s
  | .divl d src => Sys2Proof.Machine.execDivl d src s
  | .extsb d => Sys2Proof.Machine.execExtsb d s
  | .exts d => Sys2Proof.Machine.execExts d s
  | .extsl d => Sys2Proof.Machine.execExtsl d s
  | .negb dst => Sys2Proof.Machine.execNegb dst s
  | .neg dst => Sys2Proof.Machine.execNeg dst s
  -- Logical (42_logical.md)
  | .andb d src => Sys2Proof.Machine.execAndb d src s
  | .and d src => Sys2Proof.Machine.execAnd d src s
  | .orb d src => Sys2Proof.Machine.execOrb d src s
  | .or d src => Sys2Proof.Machine.execOr d src s
  | .xorb d src => Sys2Proof.Machine.execXorb d src s
  | .xor d src => Sys2Proof.Machine.execXor d src s
  | .comb dst => Sys2Proof.Machine.execComb dst s
  | .com dst => Sys2Proof.Machine.execCom dst s
  | .testb dst => Sys2Proof.Machine.execTestb dst s
  | .test dst => Sys2Proof.Machine.execTest dst s
  | .testl dst => Sys2Proof.Machine.execTestl dst s
  -- Program control (43_program_control.md)
  | .call dst => Sys2Proof.Machine.execCall dst s
  | .calr p => Sys2Proof.Machine.execCalr p s
  | .dbjnz r p => Sys2Proof.Machine.execDbjnz r p s
  | .djnz r p => Sys2Proof.Machine.execDjnz r p s
  | .iret => Sys2Proof.Machine.execIret s
  | .jp cc dst => Sys2Proof.Machine.execJp cc dst s
  | .jr cc p => Sys2Proof.Machine.execJr cc p s
  | .ret cc => Sys2Proof.Machine.execRet cc s
  | .sc v => Sys2Proof.Machine.execSc v s
  -- Bit manipulation (44_bit.md)
  | .bitb dst n => Sys2Proof.Machine.execBitb dst n s
  | .bitbDyn d k => Sys2Proof.Machine.execBitbDyn d k s
  | .bit dst n => Sys2Proof.Machine.execBit dst n s
  | .bitDyn d k => Sys2Proof.Machine.execBitDyn d k s
  | .resb dst n => Sys2Proof.Machine.execResb dst n s
  | .resbDyn d k => Sys2Proof.Machine.execResbDyn d k s
  | .res dst n => Sys2Proof.Machine.execRes dst n s
  | .resDyn d k => Sys2Proof.Machine.execResDyn d k s
  | .setb dst n => Sys2Proof.Machine.execSetb dst n s
  | .setbDyn d k => Sys2Proof.Machine.execSetbDyn d k s
  | .set dst n => Sys2Proof.Machine.execSet dst n s
  | .setDyn d k => Sys2Proof.Machine.execSetDyn d k s
  | .tccb cc d => Sys2Proof.Machine.execTccb cc d s
  | .tcc cc d => Sys2Proof.Machine.execTcc cc d s
  | .tsetb dst => Sys2Proof.Machine.execTsetb dst s
  | .tset dst => Sys2Proof.Machine.execTset dst s
  -- Rotate and shift (45_rotate_shift.md)
  | .rlb d twice => Sys2Proof.Machine.execRlb d twice s
  | .rl d twice => Sys2Proof.Machine.execRl d twice s
  | .rlcb d twice => Sys2Proof.Machine.execRlcb d twice s
  | .rlc d twice => Sys2Proof.Machine.execRlc d twice s
  | .rrb d twice => Sys2Proof.Machine.execRrb d twice s
  | .rr d twice => Sys2Proof.Machine.execRr d twice s
  | .rrcb d twice => Sys2Proof.Machine.execRrcb d twice s
  | .rrc d twice => Sys2Proof.Machine.execRrc d twice s
  | .rldb l k => Sys2Proof.Machine.execRldb l k s
  | .rrdb l k => Sys2Proof.Machine.execRrdb l k s
  | .sdab d k => Sys2Proof.Machine.execSdab d k s
  | .sda d k => Sys2Proof.Machine.execSda d k s
  | .sdal d k => Sys2Proof.Machine.execSdal d k s
  | .sdlb d k => Sys2Proof.Machine.execSdlb d k s
  | .sdl d k => Sys2Proof.Machine.execSdl d k s
  | .sdll d k => Sys2Proof.Machine.execSdll d k s
  | .slab d n => Sys2Proof.Machine.execSlab d n s
  | .sla d n => Sys2Proof.Machine.execSla d n s
  | .slal d n => Sys2Proof.Machine.execSlal d n s
  | .sllb d n => Sys2Proof.Machine.execSllb d n s
  | .sll d n => Sys2Proof.Machine.execSll d n s
  | .slll d n => Sys2Proof.Machine.execSlll d n s
  | .srab d n => Sys2Proof.Machine.execSrab d n s
  | .sra d n => Sys2Proof.Machine.execSra d n s
  | .sral d n => Sys2Proof.Machine.execSral d n s
  | .srlb d n => Sys2Proof.Machine.execSrlb d n s
  | .srl d n => Sys2Proof.Machine.execSrl d n s
  | .srll d n => Sys2Proof.Machine.execSrll d n s
  -- Block transfer and string compare (46_block_string.md)
  | .cpdb d k r cc => Sys2Proof.Machine.execCpdb d k r cc s
  | .cpd d k r cc => Sys2Proof.Machine.execCpd d k r cc s
  | .cpdrb d k r cc => Sys2Proof.Machine.execCpdrb d k r cc s
  | .cpdr d k r cc => Sys2Proof.Machine.execCpdr d k r cc s
  | .cpib d k r cc => Sys2Proof.Machine.execCpib d k r cc s
  | .cpi d k r cc => Sys2Proof.Machine.execCpi d k r cc s
  | .cpirb d k r cc => Sys2Proof.Machine.execCpirb d k r cc s
  | .cpir d k r cc => Sys2Proof.Machine.execCpir d k r cc s
  | .cpsdb d k r cc => Sys2Proof.Machine.execCpsdb d k r cc s
  | .cpsd d k r cc => Sys2Proof.Machine.execCpsd d k r cc s
  | .cpsdrb d k r cc => Sys2Proof.Machine.execCpsdrb d k r cc s
  | .cpsdr d k r cc => Sys2Proof.Machine.execCpsdr d k r cc s
  | .cpsib d k r cc => Sys2Proof.Machine.execCpsib d k r cc s
  | .cpsi d k r cc => Sys2Proof.Machine.execCpsi d k r cc s
  | .cpsirb d k r cc => Sys2Proof.Machine.execCpsirb d k r cc s
  | .cpsir d k r cc => Sys2Proof.Machine.execCpsir d k r cc s
  | .lddb d k r => Sys2Proof.Machine.execLddb d k r s
  | .ldd d k r => Sys2Proof.Machine.execLdd d k r s
  | .lddrb d k r => Sys2Proof.Machine.execLddrb d k r s
  | .lddr d k r => Sys2Proof.Machine.execLddr d k r s
  | .ldib d k r => Sys2Proof.Machine.execLdib d k r s
  | .ldi d k r => Sys2Proof.Machine.execLdi d k r s
  | .ldirb d k r => Sys2Proof.Machine.execLdirb d k r s
  | .ldir d k r => Sys2Proof.Machine.execLdir d k r s
  -- Translate (47_translate.md)
  | .trdb d k r => Sys2Proof.Machine.execTrdb d k r s
  | .trdrb d k r => Sys2Proof.Machine.execTrdrb d k r s
  | .trib d k r => Sys2Proof.Machine.execTrib d k r s
  | .trirb d k r => Sys2Proof.Machine.execTrirb d k r s
  | .trtdb k t r => Sys2Proof.Machine.execTrtdb k t r s
  | .trtdrb k t r => Sys2Proof.Machine.execTrtdrb k t r s
  | .trtib k t r => Sys2Proof.Machine.execTrtib k t r s
  | .trtirb k t r => Sys2Proof.Machine.execTrtirb k t r s
  -- Input and output (48_io.md), all privileged
  | .inpb d port => Sys2Proof.Machine.execInpb d port s
  | .inp d port => Sys2Proof.Machine.execInp d port s
  | .outb port k => Sys2Proof.Machine.execOutb port k s
  | .out port k => Sys2Proof.Machine.execOut port k s
  | .sinb d port => Sys2Proof.Machine.execSinb d port s
  | .sin d port => Sys2Proof.Machine.execSin d port s
  | .soutb port k => Sys2Proof.Machine.execSoutb port k s
  | .sout port k => Sys2Proof.Machine.execSout port k s
  | .indb d k r => Sys2Proof.Machine.execIndb d k r s
  | .ind d k r => Sys2Proof.Machine.execInd d k r s
  | .indrb d k r => Sys2Proof.Machine.execIndrb d k r s
  | .indr d k r => Sys2Proof.Machine.execIndr d k r s
  | .inib d k r => Sys2Proof.Machine.execInib d k r s
  | .ini d k r => Sys2Proof.Machine.execIni d k r s
  | .inirb d k r => Sys2Proof.Machine.execInirb d k r s
  | .inir d k r => Sys2Proof.Machine.execInir d k r s
  | .otdrb d k r => Sys2Proof.Machine.execOtdrb d k r s
  | .otdr d k r => Sys2Proof.Machine.execOtdr d k r s
  | .otirb d k r => Sys2Proof.Machine.execOtirb d k r s
  | .otir d k r => Sys2Proof.Machine.execOtir d k r s
  | .outdb d k r => Sys2Proof.Machine.execOutdb d k r s
  | .outd d k r => Sys2Proof.Machine.execOutd d k r s
  | .outib d k r => Sys2Proof.Machine.execOutib d k r s
  | .outi d k r => Sys2Proof.Machine.execOuti d k r s
  | .sindb d k r => Sys2Proof.Machine.execSindb d k r s
  | .sind d k r => Sys2Proof.Machine.execSind d k r s
  | .sindrb d k r => Sys2Proof.Machine.execSindrb d k r s
  | .sindr d k r => Sys2Proof.Machine.execSindr d k r s
  | .sinib d k r => Sys2Proof.Machine.execSinib d k r s
  | .sini d k r => Sys2Proof.Machine.execSini d k r s
  | .sinirb d k r => Sys2Proof.Machine.execSinirb d k r s
  | .sinir d k r => Sys2Proof.Machine.execSinir d k r s
  | .soutdb d k r => Sys2Proof.Machine.execSoutdb d k r s
  | .soutd d k r => Sys2Proof.Machine.execSoutd d k r s
  | .soutib d k r => Sys2Proof.Machine.execSoutib d k r s
  | .souti d k r => Sys2Proof.Machine.execSouti d k r s
  | .sotdrb d k r => Sys2Proof.Machine.execSotdrb d k r s
  | .sotdr d k r => Sys2Proof.Machine.execSotdr d k r s
  | .sotirb d k r => Sys2Proof.Machine.execSotirb d k r s
  | .sotir d k r => Sys2Proof.Machine.execSotir d k r s
  -- CPU control (49_cpu_control.md)
  | .comflg mask => Sys2Proof.Machine.execComflg mask s
  | .di vi nvi => Sys2Proof.Machine.execDi vi nvi s
  | .ei vi nvi => Sys2Proof.Machine.execEi vi nvi s
  | .halt => Sys2Proof.Machine.execHalt s
  | .ldctlRead d c => Sys2Proof.Machine.execLdctlRead d c s
  | .ldctlWrite c k => Sys2Proof.Machine.execLdctlWrite c k s
  | .ldctlbRead d => Sys2Proof.Machine.execLdctlbRead d s
  | .ldctlbWrite k => Sys2Proof.Machine.execLdctlbWrite k s
  | .ldps src => Sys2Proof.Machine.execLdps src s
  | .mbit => Sys2Proof.Machine.execMbit s
  | .mreq d => Sys2Proof.Machine.execMreq d s
  | .mres => Sys2Proof.Machine.execMres s
  | .mset => Sys2Proof.Machine.execMset s
  | .nop => Sys2Proof.Machine.execNop s
  | .resflg mask => Sys2Proof.Machine.execResflg mask s
  | .setflg mask => Sys2Proof.Machine.execSetflg mask s
  -- Extended instructions (30_encoding.md R133)
  | .epa op x => Sys2Proof.Machine.execEpa op x s

end Sys2Proof.Machine
end

