-- ==== Sys2Proof/Machine/Events.lean ====
section
/-! DEFINITION. The reset transition, and the acceptance of events at an instruction boundary (70_reset_and_hazards.md
R380, R381; 60_exceptions.md R334 to R345). -/

namespace Sys2Proof.Machine

/-- The PC the reset locations hold: the word at %0004, or on a Z8001 the segment word at %0004 and the offset word at
%0006, in segment 0 (70_reset_and_hazards.md R380). -/
def State.resetPc (s : State) : Res Addr :=
  (s.readWord ⟨0, 4⟩).andThen fun w =>
  if s.isZ8001 then (s.readWord ⟨0, 6⟩).andThen fun off => .next (Addr.ofWords w off) else .next ⟨0, w⟩

/-- The reset transition: not halted, NMI latch clear, refresh disabled, MO high; FCW and PC from the reset locations;
nothing else is written (70_reset_and_hazards.md R380). No event is examined after it (log 36). -/
def resetSequence (s : State) : Res State :=
  (s.readWord ⟨0, 2⟩).andThen fun f =>
  s.resetPc.andThen fun pc =>
  .next { s with halted := false, nmi := none, refresh := s.refresh &&& 0x7FFF, mo := .high, fcw := .ofWord s.par f,
                 pc := pc, resetReq := false }

/-- Nothing is presented. -/
def Request.nothing : Request := ⟨false, none, none, none, none⟩

/-- What the environment presents at the coming boundary (60_exceptions.md R336). Log 20. -/
def State.request (s : State) : Request := s.events.headD .nothing

/-- The NMI latch at the coming boundary: set by an edge, kept until accepted (60_exceptions.md R335). -/
def State.nmiLatch (s : State) : Option Word := s.request.nmi.or s.nmi

/-- An interrupt-enable bit counts at this boundary: it is set after the step and, with `EI_DELAY` = 1, was set before it
(D23, U15). Log 19. -/
def enabled (par : Params) (before after : Bool) : Bool :=
  match par.eiDelay with
  | .zero => after
  | .one => before && after

/-- The event accepted at a boundary, by priority: NMI, segment trap (Z8001), VI, NVI (60_exceptions.md R341, R343). `s` is
the state before the step, `t` the state after it. -/
def accepted (s t : State) : Option (Entry × Word) :=
  match s.nmiLatch with
  | some id => some (.nmi, id)
  | none =>
  match if s.isZ8001 then s.request.segt else none with
  | some id => some (.segmentTrap, id)
  | none =>
  match s.request.vi, s.request.nvi with
  | some id, none => if enabled s.par s.fcw.vie t.fcw.vie then some (.vi, id) else none
  | some id, some id' =>
    if enabled s.par s.fcw.vie t.fcw.vie then some (.vi, id)
    else if enabled s.par s.fcw.nvie t.fcw.nvie then some (.nvi, id') else none
  | none, some id' => if enabled s.par s.fcw.nvie t.fcw.nvie then some (.nvi, id') else none
  | none, none => none

/-- The boundary after a step from `s` to `t`: a reset request comes first and leads to the reset transition at the next
step (70_reset_and_hazards.md R381); otherwise at most one event is accepted, with the current PC saved
(60_exceptions.md R343, D24). -/
def boundary (s t : State) : Res State :=
  let u := { t with events := s.events.tail, nmi := s.nmiLatch }
  if s.request.reset then .next { u with resetReq := true }
  else
    match accepted s t with
    | some (.nmi, id) => enter .nmi id u.pc { u with nmi := none }
    | some (k, id) => enter k id u.pc u
    | none => .next u

end Sys2Proof.Machine
end

