-- ==== Sys2Proof/Machine/Fetch.lean ====
section
/-! DEFINITION. Fetching an instruction (00_scope.md R14, 10_state.md R28, 20_memory.md R64, R66), and placing one where the
next fetch reads. -/

namespace Sys2Proof.Machine

/-- The bytes from `a` on that can be read, at most `n` of them: a fetch needs no byte after the instruction (log 29). -/
def State.readable (s : State) : Nat → Addr → List Byte
  | 0, _ => []
  | n + 1, a =>
    match s.readByte a with
    | .next b => b :: s.readable n (a.add 1)
    | .fault _ | .refused _ => []

/-- The longest instruction: five words (30_encoding.md R90). -/
def maxBytes : Nat := 10

/-- The bytes the fetch at the PC can read. -/
def State.fetchBytes (s : State) : List Byte := s.readable maxBytes s.pc

/-- Why the byte after the readable ones cannot be fetched. -/
def State.fetchFault (s : State) : Fault :=
  match s.readByte (s.pc.add (BitVec.ofNat 16 s.fetchBytes.length)) with
  | .fault r => r
  | .next _ | .refused _ => .unwrittenMemory

/-- The PC advances by 2 for each of `n` words, in its segment (10_state.md R28). -/
def State.advance (s : State) (n : Nat) : State := { s with pc := s.pc.add (BitVec.ofNat 16 (2 * n)) }

/-- Fetch and decode the instruction at the PC, and move the PC past it (00_scope.md R14). An odd PC (U18), a byte that
cannot be read (U17, U19) and an undefined encoding (U2) stop the step. -/
def State.fetch (s : State) : Res (Instr × State) :=
  if s.pc.odd then .fault .oddPc
  else
    match decode s.segmented s.fetchBytes with
    | .ok i rest => .next (i, s.advance ((wordsOfBytes s.fetchBytes).length - rest.length))
    | .short => .fault s.fetchFault
    | .bad => .refused .undefinedEncoding

/-- Memory with bytes placed from `a` on. -/
def placeBytes (m : Memory) (a : Addr) : List Byte → Memory
  | [] => m
  | b :: bs => placeBytes (m.set a.key b) (a.add 1) bs

end Sys2Proof.Machine
end

