-- ==== Sys2Proof/Machine/Step.lean ====
section
/-! DEFINITION. One step of the machine (00_scope.md R14), and placing an instruction where the next step fetches. -/

namespace Sys2Proof.Machine

/-- One step: the reset transition when RESET has been received (70_reset_and_hazards.md R381); an idle step while halted
(49_cpu_control.md R303); otherwise one instruction, or one iteration of a repeating one, and the boundary after it
(00_scope.md R14). -/
def step (s : State) : Host.Outcome State Fault Refusal :=
  if s.resetReq then resetSequence s
  else if s.halted then boundary s s
  else s.fetch.andThen fun (i, t) => Res.andThen (exec i t) (boundary s)

/-- The state with an instruction placed at the PC and due to be fetched by the next step: neither the reset transition nor
a halt comes before it. It stands for the load of a program from outside the machine (70_reset_and_hazards.md R382). Log 4,
38. -/
def State.withFetchWord (s : State) (nbits w : Nat) : State :=
  { s with mem := placeBytes s.mem s.pc (bytesOfWords (tableWords nbits w)), resetReq := false, halted := false }

end Sys2Proof.Machine
end

