-- ==== Sys2Proof/Safety.lean ====
section
/-! DEFINITION. What holds of every state the machine is in (the invariant the claims use as a premise where they would fail
only in states no run reaches), and the vocabulary of the claims: stores, flags in unbounded integers, exception frames, and
what each instruction may change. -/

namespace Sys2Proof.Machine

/-- Every listed cell is a place of the address space: 64 KiB on a Z8002, 128 segments of 64 KiB on a Z8001
(20_memory.md R60). -/
def State.memoryInRange (s : State) : Prop :=
  ∀ c ∈ s.mem, c.1 < if s.isZ8001 then 8388608 else 65536

/-- On a Z8002 the PC has no segment number (10_state.md R27, 20_memory.md R74). -/
def State.pcLegal (s : State) : Prop := s.isZ8001 = true ∨ s.pc.seg = 0

/-- With reserved FCW bits that read back as zero, they are zero, and on a Z8002 so is SEG (10_state.md R30, U3). -/
def State.fcwLegal (s : State) : Prop :=
  s.par.fcwReserved = .readsBackZero →
    s.fcw.rsvHi = 0 ∧ s.fcw.rsvLo = 0 ∧ (s.isZ8001 = true ∨ s.fcw.seg = false)

/-- The invariant: memory is in canonical form and in range, the PC and the FCW are legal. -/
structure State.Inv (s : State) : Prop where
  memory : s.mem.wf
  range  : s.memoryInRange
  pc     : s.pcLegal
  fcw    : s.fcwLegal

/-! ## Vocabulary of the claims: encodings -/

/-- The decoder rejects the words as an undefined encoding (30_encoding.md R130). -/
def Rejected (seg : Bool) (ws : List Word) : Prop := decodeWords seg ws = .bad

/-- The sub-opcodes of the block-I/O instructions (30_encoding.md R121). -/
def blockIoCodes : List (BitVec 4) := [0x0#4, 0x1#4, 0x2#4, 0x3#4, 0x8#4, 0x9#4, 0xA#4, 0xB#4]

/-! ## Vocabulary of the claims: stores -/

/-- A store of width `W` at `a` goes through: the address is even unless the store is a byte's (20_memory.md R65), every
byte is admitted (R70), and none lies in the word right after the instruction (R82). -/
structure State.CanStore (s : State) (W : Width) (a : Addr) : Prop where
  aligned  : W = .byte ∨ a.odd = false
  admitted : ∀ i < W.bytes, s.admits (a.add (BitVec.ofNat 16 i)) = true
  apart    : ∀ i < W.bytes, a.add (BitVec.ofNat 16 i) ≠ s.pc ∧ a.add (BitVec.ofNat 16 i) ≠ s.pc.add 1

/-- `t` is `s` with `v` stored at `a`: `a` reads as `v`, every byte outside `a`'s reads as before, and nothing but memory
has changed. -/
structure State.Stored (s : State) (W : Width) (a : Addr) (v : BitVec W.bits) (t : State) : Prop where
  only  : t = { s with mem := t.mem }
  value : t.read W a = .next v
  rest  : ∀ b : Addr, (∀ i < W.bytes, b ≠ a.add (BitVec.ofNat 16 i)) → t.readByte b = s.readByte b

/-- A register or memory operand can be written. -/
def State.CanWrite (s : State) (W : Width) : Dst → Prop
  | .reg _ => True
  | .mem m => s.CanStore W (s.ea m)

/-- `t` is `s` with `v` written to a register or memory operand, and nothing else changed. -/
def State.Written (s : State) (W : Width) (dst : Dst) (v : BitVec W.bits) (t : State) : Prop :=
  match dst with
  | .reg k => t = s.setRegW W k v
  | .mem m => s.Stored W (s.ea m) v t

/-- The copies of R14 and R15 that the present mode does not name (10_state.md R26). -/
def State.otherStack (s : State) : Word × Word :=
  if s.normal then (if s.isZ8001 then s.regs[14] else s.nspSeg, s.regs[15]) else (s.nspSeg, s.nspOff)

/-! ## Vocabulary of the claims: arithmetic in unbounded integers -/

/-- An integer that does not fit `w` signed bits. -/
def tooLong (w : Nat) (x : Int) : Bool := decide (x < -(2 ^ (w - 1) : Int) ∨ (2 ^ (w - 1) : Int) ≤ x)

/-- A carry as an integer. -/
def carryInt (c : Bool) : Int := if c then 1 else 0

/-- C, Z, S and V of an addition or subtraction whose result is `r`, whose carry or borrow is `c`, and whose signed
result in unbounded integers is `x`. -/
def Fcw.arithOf {w : Nat} (f : Fcw) (r : BitVec w) (c : Bool) (x : Int) : Fcw :=
  { f with c := c, z := decide (r = 0), s := decide (r.toInt < 0), pv := tooLong w x }

/-- The FCW after `a + b + c`: a byte addition also clears DA and sets H to the carry out of bit 3 (41_arithmetic.md
R160). -/
def Fcw.sumOf (W : Width) (f : Fcw) (a b : BitVec W.bits) (c : Bool) : Fcw :=
  let g := f.arithOf (BitVec.ofNat W.bits (a.toNat + b.toNat + c.toNat)) (decide (2 ^ W.bits ≤ a.toNat + b.toNat + c.toNat))
    (a.toInt + b.toInt + carryInt c)
  match W with
  | .byte => { g with da := false, h := decide (16 ≤ a.toNat % 16 + b.toNat % 16 + c.toNat) }
  | .word | .long => g

/-- The FCW after `a - b - c` by a comparison: C on borrow (41_arithmetic.md R160, R163). -/
def Fcw.comparisonOf {w : Nat} (f : Fcw) (a b : BitVec w) : Fcw :=
  f.arithOf (a - b) (decide (a.toNat < b.toNat)) (a.toInt - b.toInt)

/-- The FCW after `a - b - c`: a byte subtraction also sets DA, and H to the borrow out of bit 3 (41_arithmetic.md
R160). -/
def Fcw.differenceOf (W : Width) (f : Fcw) (a b : BitVec W.bits) (c : Bool) : Fcw :=
  let g := f.arithOf (a - b - BitVec.ofNat W.bits c.toNat) (decide (a.toNat < b.toNat + c.toNat))
    (a.toInt - b.toInt - carryInt c)
  match W with
  | .byte => { g with da := true, h := decide (a.toNat % 16 < b.toNat % 16 + c.toNat) }
  | .word | .long => g

/-- A two-digit BCD byte (41_arithmetic.md R164). -/
def isBcd (v : Byte) : Prop := v.toNat / 16 ≤ 9 ∧ v.toNat % 16 ≤ 9

/-- The number a BCD byte stands for. -/
def bcdValue (v : Byte) : Nat := 10 * (v.toNat / 16) + v.toNat % 16

/-! ## Vocabulary of the claims: taking an exception -/

/-- The system stack pointer as an address in the mode of the entry (60_exceptions.md R345). -/
def State.systemStack (s : State) : Addr :=
  if s.isZ8001 then Addr.ofWords s.regs[14] s.regs[15] else ⟨s.pc.seg, s.regs[15]⟩

/-- The size of the frame in bytes (60_exceptions.md R345). -/
def State.frameSize (s : State) : Nat := if s.isZ8001 then 8 else 6

/-- The address of the frame, which is the system stack pointer after the entry. -/
def State.frame (s : State) : Addr := s.systemStack.add (-(BitVec.ofNat 16 s.frameSize))

/-- No byte of the frame lies in the word right after the instruction (20_memory.md R82). -/
def State.frameApart (s : State) : Prop :=
  ∀ j < s.frameSize, s.frame.add (BitVec.ofNat 16 j) ≠ s.pc ∧ s.frame.add (BitVec.ofNat 16 j) ≠ s.pc.add 1

/-- The stack and the program status area allow an entry of kind `k` that loads `f` and `p`: the stack pointer is even, the
frame is admitted, and the entry's words are readable and apart from the frame. -/
structure State.CanEnter (s : State) (k : Entry) (id f : Word) (p : Addr) : Prop where
  even     : s.systemStack.odd = false
  admitted : ∀ j < s.frameSize, s.admits (s.frame.add (BitVec.ofNat 16 j)) = true
  newFcw   : s.readWord (s.psaBase.add (k.fcwOffset s.par.variant)) = .next f
  newPc    : s.readPc (s.psaBase.add (k.pcOffset s.par.variant id)) = .next p
  fcwApart : ∀ j < s.frameSize, ∀ i < 2,
    s.psaBase.add (k.fcwOffset s.par.variant + BitVec.ofNat 16 i) ≠ s.frame.add (BitVec.ofNat 16 j)
  pcApart  : ∀ j < s.frameSize, ∀ i < 4,
    s.psaBase.add (k.pcOffset s.par.variant id + BitVec.ofNat 16 i) ≠ s.frame.add (BitVec.ofNat 16 j)

/-- `t` is the state after an entry that saved `pc` and the FCW of `s` under the identifier `id`, and loaded `f` and `p`: the
frame holds the identifier, the FCW and the PC upwards from the new stack pointer; every other byte, register and field is
as before (60_exceptions.md R345). -/
structure State.Entered (s : State) (id : Word) (pc : Addr) (f : Word) (p : Addr) (t : State) : Prop where
  only   : t = { s with regs := s.regs.set 15 (s.regs[15] - BitVec.ofNat 16 s.frameSize), mem := t.mem
                        fcw := .ofWord s.par f, pc := p, halted := false }
  ident  : t.readWord s.frame = .next id
  status : t.readWord (s.frame.add 2) = .next s.fcw.toWord
  pcSeg  : s.isZ8001 = true → t.readWord (s.frame.add 4) = .next pc.segWord
  pcOff  : t.readWord (s.frame.add (if s.isZ8001 then 6 else 4)) = .next pc.off
  rest   : ∀ b : Addr, (∀ j < s.frameSize, b ≠ s.frame.add (BitVec.ofNat 16 j)) → t.readByte b = s.readByte b

/-! ## Vocabulary of the claims: what each instruction may change -/

/-- The privileged instructions (60_exceptions.md R350). -/
def isPrivileged : Instr → Bool
  | .di _ _ | .ei _ _ | .halt | .iret | .ldctlRead _ _ | .ldctlWrite _ _ | .ldps _ | .mbit | .mreq _ | .mres | .mset
  | .inpb _ _ | .inp _ _ | .outb _ _ | .out _ _ | .sinb _ _ | .sin _ _ | .soutb _ _ | .sout _ _
  | .indb _ _ _ | .ind _ _ _ | .indrb _ _ _ | .indr _ _ _ | .inib _ _ _ | .ini _ _ _ | .inirb _ _ _ | .inir _ _ _
  | .otdrb _ _ _ | .otdr _ _ _ | .otirb _ _ _ | .otir _ _ _ | .outdb _ _ _ | .outd _ _ _ | .outib _ _ _ | .outi _ _ _
  | .sindb _ _ _ | .sind _ _ _ | .sindrb _ _ _ | .sindr _ _ _ | .sinib _ _ _ | .sini _ _ _ | .sinirb _ _ _
  | .sinir _ _ _ | .soutdb _ _ _ | .soutd _ _ _ | .soutib _ _ _ | .souti _ _ _ | .sotdrb _ _ _ | .sotdr _ _ _
  | .sotirb _ _ _ | .sotir _ _ _ => true
  | _ => false

/-- The instruction takes a trap in this state (60_exceptions.md R331 to R333). -/
def State.traps (s : State) (i : Instr) : Bool :=
  match i with
  | .sc _ | .epa _ _ => true
  | i => isPrivileged i && s.normal

/-- The instruction loads the whole FCW (10_state.md R32: LDCTL FCW, LDPS, IRET). -/
def loadsFcw : Instr → Bool
  | .iret | .ldps _ | .ldctlWrite .fcw _ => true
  | _ => false

/-- Which of the six flags an instruction may write. -/
structure FlagSet where
  c  : Bool
  z  : Bool
  s  : Bool
  pv : Bool
  da : Bool
  h  : Bool
  deriving DecidableEq, Repr

/-- The table of 10_state.md R32: a flag is in the set unless the table has "-" for it. -/
def flagsOf : Instr → FlagSet
  | .add _ _ | .addl _ _ | .adc _ _ | .sub _ _ | .subl _ _ | .sbc _ _ | .cp _ _ | .cpb _ _ | .cpl _ _ | .cpImm _ _
  | .cpbImm _ _ | .neg _ | .negb _ | .mult _ _ | .multl _ _ | .div _ _ | .divl _ _
  | .rl _ _ | .rlb _ _ | .rlc _ _ | .rlcb _ _ | .rr _ _ | .rrb _ _ | .rrc _ _ | .rrcb _ _
  | .sla _ _ | .slab _ _ | .slal _ _ | .sda _ _ | .sdab _ _ | .sdal _ _ | .sra _ _ | .srab _ _ | .sral _ _
  | .sll _ _ | .sllb _ _ | .slll _ _ | .srl _ _ | .srlb _ _ | .srll _ _ | .sdl _ _ | .sdlb _ _ | .sdll _ _
  | .cpi _ _ _ _ | .cpib _ _ _ _ | .cpd _ _ _ _ | .cpdb _ _ _ _ | .cpir _ _ _ _ | .cpirb _ _ _ _ | .cpdr _ _ _ _
  | .cpdrb _ _ _ _ | .cpsi _ _ _ _ | .cpsib _ _ _ _ | .cpsd _ _ _ _ | .cpsdb _ _ _ _ | .cpsir _ _ _ _
  | .cpsirb _ _ _ _ | .cpsdr _ _ _ _ | .cpsdrb _ _ _ _ => ⟨true, true, true, true, false, false⟩
  | .addb _ _ | .adcb _ _ | .subb _ _ | .sbcb _ _ | .ldctlbWrite _ => ⟨true, true, true, true, true, true⟩
  | .inc _ _ | .incb _ _ | .dec _ _ | .decb _ _ => ⟨false, true, true, true, false, false⟩
  | .dab _ => ⟨true, true, true, false, false, false⟩
  | .and _ _ | .or _ _ | .xor _ _ | .com _ | .test _ | .testl _ => ⟨false, true, true, false, false, false⟩
  | .andb _ _ | .orb _ _ | .xorb _ _ | .comb _ | .testb _ => ⟨false, true, true, true, false, false⟩
  | .bit _ _ | .bitb _ _ | .bitDyn _ _ | .bitbDyn _ _ => ⟨false, true, false, false, false, false⟩
  | .tset _ | .tsetb _ => ⟨false, false, true, false, false, false⟩
  | .rldb _ _ | .rrdb _ _ | .mbit | .mreq _ => ⟨false, true, true, false, false, false⟩
  | .ldi _ _ _ | .ldib _ _ _ | .ldd _ _ _ | .lddb _ _ _ | .ldir _ _ _ | .ldirb _ _ _ | .lddr _ _ _ | .lddrb _ _ _
  | .trib _ _ _ | .trdb _ _ _ | .trirb _ _ _ | .trdrb _ _ _ | .trtib _ _ _ | .trtdb _ _ _ | .trtirb _ _ _
  | .trtdrb _ _ _
  | .ini _ _ _ | .inib _ _ _ | .ind _ _ _ | .indb _ _ _ | .inir _ _ _ | .inirb _ _ _ | .indr _ _ _ | .indrb _ _ _
  | .outi _ _ _ | .outib _ _ _ | .outd _ _ _ | .outdb _ _ _ | .otir _ _ _ | .otirb _ _ _ | .otdr _ _ _ | .otdrb _ _ _
  | .sini _ _ _ | .sinib _ _ _ | .sind _ _ _ | .sindb _ _ _ | .sinir _ _ _ | .sinirb _ _ _ | .sindr _ _ _
  | .sindrb _ _ _ | .souti _ _ _ | .soutib _ _ _ | .soutd _ _ _ | .soutdb _ _ _ | .sotir _ _ _ | .sotirb _ _ _
  | .sotdr _ _ _ | .sotdrb _ _ _ => ⟨false, true, false, true, false, false⟩
  | .setflg m | .resflg m | .comflg m =>
    ⟨m.getLsbD 3, m.getLsbD 2, m.getLsbD 1, m.getLsbD 0, false, false⟩
  | _ => ⟨false, false, false, false, false, false⟩

/-- Every flag outside the set, and everything else in the FCW but the interrupt enables, is kept. -/
def Fcw.keeps (f g : Fcw) (w : FlagSet) : Prop :=
  (w.c = false → g.c = f.c) ∧ (w.z = false → g.z = f.z) ∧ (w.s = false → g.s = f.s) ∧ (w.pv = false → g.pv = f.pv)
    ∧ (w.da = false → g.da = f.da) ∧ (w.h = false → g.h = f.h)
    ∧ g.seg = f.seg ∧ g.sys = f.sys ∧ g.epa = f.epa ∧ g.rsvHi = f.rsvHi ∧ g.rsvLo = f.rsvLo

/-- The word registers of an operand register. -/
def widthRegs (W : Width) (k : RegNo) : List RegNo :=
  match W with
  | .byte => [byteHome k]
  | .word => [k]
  | .long => [k, k + 1]

/-- The word registers of a register destination; a memory destination has none. -/
def dstRegs (W : Width) : Dst → List RegNo
  | .reg k => widthRegs W k
  | .mem _ => []

/-- The word registers of a quadruple. -/
def quadRegs (k : RegNo) : List RegNo := [k, k + 1, k + 2, k + 3]

/-- The word registers an address is loaded into (LDA, LDAR). -/
def State.addressRegs (s : State) (d : RegNo) : List RegNo := if s.segmented then [d, d + 1] else [d]

/-- The registers an instruction may change: its destinations, and the pointers, counters and stack pointers it moves. -/
def State.dests (s : State) : Instr → List RegNo
  | .clrb d | .comb d | .negb d | .incb d _ | .decb d _ | .resb d _ | .setb d _ | .tsetb d => dstRegs .byte d
  | .clr d | .com d | .neg d | .inc d _ | .dec d _ | .res d _ | .set d _ | .tset d => dstRegs .word d
  | .exb d x => byteHome d :: dstRegs .byte x
  | .ex d x => d :: dstRegs .word x
  | .ldb d _ | .ldbBased d _ | .ldbShort d _ | .ldrb d _ | .adcb d _ | .sbcb d _ | .addb d _ | .subb d _ | .andb d _
  | .orb d _ | .xorb d _ | .dab d | .dbjnz d _ | .resbDyn d _ | .setbDyn d _ | .tccb _ d | .rlb d _ | .rlcb d _
  | .rrb d _ | .rrcb d _ | .sdab d _ | .sdlb d _ | .slab d _ | .sllb d _ | .srab d _ | .srlb d _ | .inpb d _
  | .sinb d _ | .ldctlbRead d => [byteHome d]
  | .ld d _ | .ldBased d _ | .ldk d _ | .ldr d _ | .adc d _ | .sbc d _ | .add d _ | .sub d _ | .and d _ | .or d _
  | .xor d _ | .extsb d | .djnz d _ | .resDyn d _ | .setDyn d _ | .tcc _ d | .rl d _ | .rlc d _ | .rr d _ | .rrc d _
  | .sda d _ | .sdl d _ | .sla d _ | .sll d _ | .sra d _ | .srl d _ | .inp d _ | .sin d _ | .ldctlRead d _
  | .mreq d => [d]
  | .ldl d _ | .ldlBased d _ | .ldrl d _ | .addl d _ | .subl d _ | .mult d _ | .div d _ | .exts d | .sdal d _
  | .sdll d _ | .slal d _ | .slll d _ | .sral d _ | .srll d _ => [d, d + 1]
  | .multl d _ | .divl d _ | .extsl d => quadRegs d
  | .lda d _ | .ldaIndexed d _ _ | .ldaBased d _ | .ldar d _ => s.addressRegs d
  | .ldmLoad d _ n => (List.range (n.toNat + 1)).map fun j => d + BitVec.ofNat 4 j
  | .pop d p => s.offsetReg p :: dstRegs .word d
  | .popl d p => s.offsetReg p :: dstRegs .long d
  | .push p _ | .pushl p _ => [s.offsetReg p]
  | .call _ | .calr _ | .ret _ | .iret => [15]
  | .rldb l r | .rrdb l r => [byteHome l, byteHome r]
  | .cpdb _ p r _ | .cpd _ p r _ | .cpdrb _ p r _ | .cpdr _ p r _ | .cpib _ p r _ | .cpi _ p r _ | .cpirb _ p r _
  | .cpir _ p r _ => [s.offsetReg p, r]
  | .cpsdb d p r _ | .cpsd d p r _ | .cpsdrb d p r _ | .cpsdr d p r _ | .cpsib d p r _ | .cpsi d p r _
  | .cpsirb d p r _ | .cpsir d p r _ | .lddb d p r | .ldd d p r | .lddrb d p r | .lddr d p r | .ldib d p r
  | .ldi d p r | .ldirb d p r | .ldir d p r => [s.offsetReg d, s.offsetReg p, r]
  | .trdb p _ r | .trdrb p _ r | .trib p _ r | .trirb p _ r | .trtdb p _ r | .trtdrb p _ r | .trtib p _ r
  | .trtirb p _ r => [s.offsetReg p, r, 1]
  | .indb d _ r | .ind d _ r | .indrb d _ r | .indr d _ r | .inib d _ r | .ini d _ r | .inirb d _ r | .inir d _ r
  | .sindb d _ r | .sind d _ r | .sindrb d _ r | .sindr d _ r | .sinib d _ r | .sini d _ r | .sinirb d _ r
  | .sinir d _ r => [s.offsetReg d, r]
  | .otdrb _ p r | .otdr _ p r | .otirb _ p r | .otir _ p r | .outdb _ p r | .outd _ p r | .outib _ p r | .outi _ p r
  | .soutdb _ p r | .soutd _ p r | .soutib _ p r | .souti _ p r | .sotdrb _ p r | .sotdr _ p r | .sotirb _ p r
  | .sotir _ p r => [s.offsetReg p, r]
  | _ => []

/-- A run of bytes from an address. -/
structure Span where
  base : Addr
  size : Nat
  deriving DecidableEq, Repr

/-- The address is one of the span's bytes. -/
def Span.holds (r : Span) (b : Addr) : Prop := ∃ i < r.size, b = r.base.add (BitVec.ofNat 16 i)

/-- The span of a register or memory operand. -/
def State.dstSpan (s : State) (W : Width) : Dst → List Span
  | .reg _ => []
  | .mem m => [⟨s.ea m, W.bytes⟩]

/-- The span of a push of `n` bytes onto the pointer register `p`. -/
def State.pushSpan (s : State) (p : RegNo) (n : Nat) : Span := ⟨(s.pointer p).add (-(BitVec.ofNat 16 n)), n⟩

/-- The bytes an instruction that takes no trap may store to: the address is computed as its meaning computes it. -/
def State.stores (s : State) : Instr → List Span
  | .clrb d | .comb d | .negb d | .incb d _ | .decb d _ | .resb d _ | .setb d _ | .tsetb d | .exb _ d => s.dstSpan .byte d
  | .clr d | .com d | .neg d | .inc d _ | .dec d _ | .res d _ | .set d _ | .tset d | .ex _ d | .pop d _ => s.dstSpan .word d
  | .popl d _ => s.dstSpan .long d
  | .ldbStore m _ | .ldbStoreImm m _ => [⟨s.ea m, 1⟩]
  | .ldStore m _ | .ldStoreImm m _ => [⟨s.ea m, 2⟩]
  | .ldlStore m _ => [⟨s.ea m, 4⟩]
  | .ldbStoreBased b _ => [⟨s.eaBased b, 1⟩]
  | .ldStoreBased b _ => [⟨s.eaBased b, 2⟩]
  | .ldlStoreBased b _ => [⟨s.eaBased b, 4⟩]
  | .ldrbStore x _ => [⟨s.eaRelative x, 1⟩]
  | .ldrStore x _ => [⟨s.eaRelative x, 2⟩]
  | .ldrlStore x _ => [⟨s.eaRelative x, 4⟩]
  | .ldmStore m _ n => [⟨s.ea m, 2 * (n.toNat + 1)⟩]
  | .push p _ => [s.pushSpan p 2]
  | .pushl p _ => [s.pushSpan p 4]
  | .call _ | .calr _ => [s.pushSpan s.stackReg (if s.segmented then 4 else 2)]
  | .lddb d _ _ | .lddrb d _ _ | .ldib d _ _ | .ldirb d _ _ | .trdb d _ _ | .trdrb d _ _ | .trib d _ _ | .trirb d _ _
  | .indb d _ _ | .indrb d _ _ | .inib d _ _ | .inirb d _ _ | .sindb d _ _ | .sindrb d _ _ | .sinib d _ _
  | .sinirb d _ _ => [⟨s.pointer d, 1⟩]
  | .ldd d _ _ | .lddr d _ _ | .ldi d _ _ | .ldir d _ _ | .ind d _ _ | .indr d _ _ | .ini d _ _ | .inir d _ _
  | .sind d _ _ | .sindr d _ _ | .sini d _ _ | .sinir d _ _ => [⟨s.pointer d, 2⟩]
  | _ => []

/-- The instruction reads or writes a port. -/
def usesIo : Instr → Bool
  | .di _ _ | .ei _ _ | .halt | .iret | .ldctlRead _ _ | .ldctlWrite _ _ | .ldps _ | .mbit | .mreq _ | .mres | .mset => false
  | i => isPrivileged i

/-- The instruction samples MI (10_state.md R38). -/
def usesMi : Instr → Bool
  | .mbit | .mreq _ => true
  | _ => false

/-! ## Vocabulary of the claims: what one shape of instruction does -/

/-- `i` stores `v` at `a` whenever the store goes through, and changes nothing else. -/
def Stores (W : Width) (i : Instr) (a : Addr) (v : BitVec W.bits) (s : State) : Prop :=
  s.CanStore W a → ∃ t, s.Stored W a v t ∧ exec i s = .next t

/-- `i` reads a register or memory operand, writes `result` of its value back, and sets the FCW to `flags` of it. -/
def Modifies (W : Width) (i : Instr) (dst : Dst) (result : BitVec W.bits → BitVec W.bits)
    (flags : BitVec W.bits → Fcw) (s : State) : Prop :=
  ∀ v, s.readDst W dst = .next v → s.CanWrite W dst →
    ∃ t, s.Written W dst (result v) t ∧ exec i s = .next { t with fcw := flags v }

/-- `i` puts `a + b + c`, `a` being its destination register, back into that register (41_arithmetic.md R160). -/
def Adds (W : Width) (i : Instr) (d : RegNo) (b : BitVec W.bits) (c : Bool) (s : State) : Prop :=
  exec i s = .next
    { s.setRegW W d (s.regW W d + b + BitVec.ofNat W.bits c.toNat) with fcw := s.fcw.sumOf W (s.regW W d) b c }

/-- `i` puts `a - b - c`, `a` being its destination register, back into that register (41_arithmetic.md R160). -/
def Subtracts (W : Width) (i : Instr) (d : RegNo) (b : BitVec W.bits) (c : Bool) (s : State) : Prop :=
  exec i s = .next
    { s.setRegW W d (s.regW W d - b - BitVec.ofNat W.bits c.toNat) with fcw := s.fcw.differenceOf W (s.regW W d) b c }

/-- The conditions that order two operands hold of the flags exactly as the operands are ordered, signed and unsigned
(30_encoding.md R110, 41_arithmetic.md R173). -/
def Fcw.Orders {w : Nat} (f : Fcw) (a b : BitVec w) : Prop :=
  condHolds f .z = decide (a = b) ∧ condHolds f .nz = decide (a ≠ b) ∧
  condHolds f .lt = decide (a.toInt < b.toInt) ∧ condHolds f .le = decide (a.toInt ≤ b.toInt) ∧
  condHolds f .gt = decide (a.toInt > b.toInt) ∧ condHolds f .ge = decide (a.toInt ≥ b.toInt) ∧
  condHolds f .c = decide (a.toNat < b.toNat) ∧ condHolds f .ule = decide (a.toNat ≤ b.toNat) ∧
  condHolds f .ugt = decide (a.toNat > b.toNat) ∧ condHolds f .nc = decide (a.toNat ≥ b.toNat)

/-- `i` sets C, Z, S and V as `a - b` would, which orders the operands, and changes nothing else (41_arithmetic.md R163). -/
def Compares {w : Nat} (i : Instr) (a b : BitVec w) (s : State) : Prop :=
  exec i s = .next { s with fcw := s.fcw.comparisonOf a b } ∧ (s.fcw.comparisonOf a b).Orders a b

/-- Division truncated toward zero: `a = q * b + rem`, |rem| < |b|, and rem has the sign of `a` (41_arithmetic.md R166). -/
structure IsQuotient (a b q rem : Int) : Prop where
  nonzero : b ≠ 0
  whole   : a = q * b + rem
  small   : rem.natAbs < b.natAbs
  sign    : rem = 0 ∨ (rem < 0 ↔ a < 0)

/-- Z and S of a logical result; a byte also sets P to "an even number of ones" (42_logical.md R180). -/
def Fcw.logicOf (f : Fcw) (W : Width) (r : BitVec W.bits) : Fcw :=
  let g := { f with z := decide (r = 0), s := decide (r.toInt < 0) }
  match W with
  | .byte => { g with pv := decide (((List.range 8).countP r.getLsbD) % 2 = 0) }
  | .word | .long => g

/-- `i` puts `r` into its destination register, with the flags of a logical result. -/
def Logics (W : Width) (i : Instr) (d : RegNo) (r : BitVec W.bits) (s : State) : Prop :=
  exec i s = .next { s.setRegW W d r with fcw := s.fcw.logicOf W r }

/-- The bits of `r` are those of `v`, but for bit `n`, which is `x` (44_bit.md R206, R207). -/
def BitChanged {w : Nat} (v r : BitVec w) (n : Nat) (x : Bool) : Prop :=
  ∀ j < w, r.getLsbD j = if j = n then x else v.getLsbD j

/-- `i` makes bit `n` of a register or memory operand `x`, and changes no flag (44_bit.md R206, R207). -/
def ChangesBit (W : Width) (i : Instr) (dst : Dst) (n : Nat) (x : Bool) (s : State) : Prop :=
  ∀ v, s.readDst W dst = .next v → s.CanWrite W dst →
    ∃ r t, BitChanged v r n x ∧ s.Written W dst r t ∧ exec i s = .next t

/-- `i` copies "bit `n` is 0" to Z, and changes nothing else (44_bit.md R205). -/
def TestsBit (W : Width) (i : Instr) (dst : Dst) (n : Nat) (s : State) : Prop :=
  ∀ v, s.readDst W dst = .next v →
    exec i s = .next { s with fcw := { s.fcw with z := decide (v.getLsbD n = false) } }

/-- A rotate: `r1` after one position with carry `c1`, `r2` after two with carry `c2`. V says whether the sign changed; where it
changed at both positions, V is any value (45_rotate_shift.md R213, U11). -/
def Turns (W : Width) (i : Instr) (d : RegNo) (twice : Bool) (r1 r2 : BitVec W.bits) (c1 c2 : Bool) (s : State) :
    Prop :=
  ∃ pv n, exec i s = .next
      { s.setRegW W d (if twice then r2 else r1) with
          fcw := { s.fcw with c := if twice then c2 else c1, z := decide ((if twice then r2 else r1) = 0)
                              s := (if twice then r2 else r1).msb, pv := pv }
          free := n } ∧
    (twice = false → pv = decide (r1.msb ≠ (s.regW W d).msb)) ∧
    (twice = true → ¬(r1.msb ≠ (s.regW W d).msb ∧ r2.msb ≠ r1.msb) →
      pv = decide (r1.msb ≠ (s.regW W d).msb ∨ r2.msb ≠ r1.msb))

/-- `t` is `s` with a register shifted left by `n`: C the last bit moved out (any value for `n` = 0), V for an arithmetic
shift set when the signed product by 2^n does not fit, else any value (45_rotate_shift.md R214, R224, R225). -/
def ShiftedLeft (W : Width) (arith : Bool) (d : RegNo) (n : Nat) (s t : State) : Prop :=
  ∃ c pv m, t = { s.setRegW W d (s.regW W d <<< n) with
        fcw := { s.fcw with c := c, z := decide (s.regW W d <<< n = 0), s := (s.regW W d <<< n).msb, pv := pv }
        free := m } ∧
    (1 ≤ n → c = (s.regW W d).getLsbD (W.bits - n)) ∧
    (arith = true → pv = tooLong W.bits ((s.regW W d).toInt * 2 ^ n))

/-- `t` is `s` with a register shifted right by `n` ≥ 1: the sign or zeros enter, C is the last bit moved out, V is 0 for an
arithmetic shift, else any value (45_rotate_shift.md R214, R226, R227). -/
def ShiftedRight (W : Width) (arith : Bool) (d : RegNo) (n : Nat) (s t : State) : Prop :=
  ∃ pv m, let r := if arith then (s.regW W d).sshiftRight n else s.regW W d >>> n
    t = { s.setRegW W d r with
        fcw := { s.fcw with c := (s.regW W d).getLsbD (n - 1), z := decide (r = 0), s := r.msb, pv := pv }
        free := m } ∧
    (arith = true → pv = false)

/-- A dynamic shift: left for a count from 0 to W, right for one from -W to -1; outside that the result, C, Z, S and V are
any value (45_rotate_shift.md R222, R223, D13). -/
def ShiftsDynamically (W : Width) (arith : Bool) (i : Instr) (d r : RegNo) (s : State) : Prop :=
  ∃ t, exec i s = .next t ∧
    (∀ n : Nat, n ≤ W.bits → (s.reg r).toInt = n → ShiftedLeft W arith d n s t) ∧
    (∀ n : Nat, 1 ≤ n → n ≤ W.bits → (s.reg r).toInt = -n → ShiftedRight W arith d n s t) ∧
    ∃ v c z sg pv m, t = { s.setRegW W d v with fcw := { s.fcw with c := c, z := z, s := sg, pv := pv }, free := m }

/-- The call of `target`: the PC is pushed on the processor stack and control goes to the target (43_program_control.md R190,
R191). -/
def Calls (i : Instr) (target : Addr) (s : State) : Prop :=
  (s.segmented = false → ∀ sp, sp = (s.pointer 15).add (-2) → s.CanStore .word sp →
    ∃ t, (s.setReg 15 (s.reg 15 - 2)).Stored .word sp s.pc.off t ∧ exec i s = .next { t with pc := target }) ∧
  (s.segmented = true → ∀ sp, sp = (s.pointer 14).add (-4) → s.CanStore .long sp →
    ∃ t, (s.setReg 15 (s.reg 15 - 4)).Stored .long sp (s.pc.segWord ++ s.pc.off) t
      ∧ exec i s = .next { t with pc := target })

/-- A block instruction that repeats and is not finished stays at its own two words (46_block_string.md R236). -/
def State.nextPc (s : State) (finished : Bool) : Addr := if finished then s.pc else s.pc.add (-4)

/-- One iteration of a search: the register against the element at `p` (46_block_string.md R252, R236, R237). -/
def Searches (W : Width) (step : Word) (repeats : Bool) (i : RegNo → RegNo → RegNo → Cond → Instr) : Prop :=
  ∀ (s : State) (d p r : RegNo) (cc : Cond),
    (¬(comparedReg W d :: r :: s.pointerRegs p).Nodup → exec (i d p r cc) s = .refused .registerOverlap) ∧
    ((comparedReg W d :: r :: s.pointerRegs p).Nodup → ∀ m, s.read W (s.pointer p) = .next m →
      ∃ c sg n, let hit := condHolds (s.fcw.comparisonOf (s.regW W d) m) cc
        exec (i d p r cc) s = .next
          { (s.setReg (s.offsetReg p) (s.reg (s.offsetReg p) + step)).setReg r (s.reg r - 1) with
              fcw := { s.fcw with c := c, z := hit, s := sg, pv := decide (s.reg r = 1) }
              pc := s.nextPc (!repeats || hit || decide (s.reg r = 1))
              free := n })

/-- One iteration of a comparison of two strings: the element at `d` against the one at `p` (46_block_string.md R253). -/
def ComparesStrings (W : Width) (step : Word) (repeats : Bool) (i : RegNo → RegNo → RegNo → Cond → Instr) : Prop :=
  ∀ (s : State) (d p r : RegNo) (cc : Cond),
    (¬(r :: s.pointerRegs d ++ s.pointerRegs p).Nodup → exec (i d p r cc) s = .refused .registerOverlap) ∧
    ((r :: s.pointerRegs d ++ s.pointerRegs p).Nodup → ∀ a b, s.read W (s.pointer d) = .next a →
      s.read W (s.pointer p) = .next b →
      ∃ c sg n, let hit := condHolds (s.fcw.comparisonOf a b) cc
        exec (i d p r cc) s = .next
          { ((s.setReg (s.offsetReg d) (s.reg (s.offsetReg d) + step)).setReg (s.offsetReg p)
              (s.reg (s.offsetReg p) + step)).setReg r (s.reg r - 1) with
              fcw := { s.fcw with c := c, z := hit, s := sg, pv := decide (s.reg r = 1) }
              pc := s.nextPc (!repeats || hit || decide (s.reg r = 1))
              free := n })

/-- One iteration of a block move: the element at `p` is stored at `d` (46_block_string.md R254). -/
def MovesElement (W : Width) (step : Word) (repeats : Bool) (i : RegNo → RegNo → RegNo → Instr) : Prop :=
  ∀ (s : State) (d p r : RegNo),
    (¬(r :: s.pointerRegs d ++ s.pointerRegs p).Nodup → exec (i d p r) s = .refused .registerOverlap) ∧
    ((r :: s.pointerRegs d ++ s.pointerRegs p).Nodup → ∀ v, s.read W (s.pointer p) = .next v →
      s.CanStore W (s.pointer d) →
      ∃ u z n, s.Stored W (s.pointer d) v u ∧ exec (i d p r) s = .next
        { ((u.setReg (s.offsetReg d) (s.reg (s.offsetReg d) + step)).setReg (s.offsetReg p)
            (s.reg (s.offsetReg p) + step)).setReg r (s.reg r - 1) with
            fcw := { s.fcw with z := z, pv := decide (s.reg r = 1) }
            pc := s.nextPc (!repeats || decide (s.reg r = 1))
            free := n })

/-- The registers of a translate instruction are separate, and R1 (in segmented mode RR0) is none of them
(47_translate.md R256). -/
def State.TranslateApart (s : State) (p table r : RegNo) : Prop :=
  (r :: (s.pointerRegs p ++ s.pointerRegs table ++ if s.segmented then [0, 1] else [1])).Nodup

/-- One iteration of a translation: the table's entry for the byte at `p` replaces that byte; RH1 and Z are any value
(47_translate.md R266, R257). -/
def Translates (step : Word) (repeats : Bool) (i : RegNo → RegNo → RegNo → Instr) : Prop :=
  ∀ (s : State) (p table r : RegNo),
    (¬s.TranslateApart p table r → exec (i p table r) s = .refused .registerOverlap) ∧
    (s.TranslateApart p table r → ∀ b v, s.readByte (s.pointer p) = .next b →
      s.readByte ((s.pointer table).add (0#8 ++ b)) = .next v → s.CanStore .byte (s.pointer p) →
      ∃ u z x n, s.Stored .byte (s.pointer p) v u ∧ exec (i p table r) s = .next
        { ((u.setByteReg 1 x).setReg (s.offsetReg p) (s.reg (s.offsetReg p) + step)).setReg r (s.reg r - 1) with
            fcw := { s.fcw with z := z, pv := decide (s.reg r = 1) }
            pc := s.nextPc (!repeats || decide (s.reg r = 1))
            free := n })

/-- One iteration of a translate-and-test: the table's entry for the byte at `p` goes to RH1, Z says whether it is 0; a
repeating form is finished at an entry that is not 0 (47_translate.md R267). -/
def TranslatesAndTests (step : Word) (repeats : Bool) (i : RegNo → RegNo → RegNo → Instr) : Prop :=
  ∀ (s : State) (p table r : RegNo),
    (¬s.TranslateApart p table r → exec (i p table r) s = .refused .registerOverlap) ∧
    (s.TranslateApart p table r → ∀ b v, s.readByte (s.pointer p) = .next b →
      s.readByte ((s.pointer table).add (0#8 ++ b)) = .next v →
      exec (i p table r) s = .next
        { ((s.setByteReg 1 v).setReg (s.offsetReg p) (s.reg (s.offsetReg p) + step)).setReg r (s.reg r - 1) with
            fcw := { s.fcw with z := decide (v = 0), pv := decide (s.reg r = 1) }
            pc := s.nextPc (!repeats || decide (v ≠ 0) || decide (s.reg r = 1)) })

/-- An I/O read from `port`: the environment's next answer, or any value where it gives none, goes to `d`; the access is
recorded (48_io.md R270, R272). -/
def Inputs (W : Width) (space : IoSpace) (i : Instr) (d : RegNo) (port : Word) (s : State) : Prop :=
  (∀ v rest, s.ioIn = v :: rest → exec i s = .next
    { s.setRegW W d (v.setWidth W.bits) with
        ioIn := rest, ioLog := s.ioLog ++ [⟨space, port, false, W, (v.setWidth W.bits).setWidth 16⟩] }) ∧
  (s.ioIn = [] → ∃ x : BitVec W.bits, exec i s = .next
    { s.setRegW W d x with
        free := s.free + 1, ioLog := s.ioLog ++ [⟨space, port, false, W, x.setWidth 16⟩] })

/-- An I/O write of the register `r` to `port`: it is recorded, and nothing else changes (48_io.md R273). -/
def Outputs (W : Width) (space : IoSpace) (i : Instr) (port : Word) (r : RegNo) (s : State) : Prop :=
  exec i s = .next { s with ioLog := s.ioLog ++ [⟨space, port, true, W, (s.regW W r).setWidth 16⟩] }

/-- One block-input iteration in system mode: port register `p`, memory pointer `d`, counter `r` (48_io.md R271). -/
def InputsElement (W : Width) (space : IoSpace) (step : Word) (repeats : Bool)
    (i : RegNo → RegNo → RegNo → Instr) : Prop :=
  ∀ (s : State) (d p r : RegNo), s.fcw.sys = true →
    (¬(r :: p :: s.pointerRegs d).Nodup → exec (i d p r) s = .refused .registerOverlap) ∧
    ((r :: p :: s.pointerRegs d).Nodup → s.CanStore W (s.pointer d) →
      ∃ (x : BitVec W.bits) (u : State) (z : Bool) (n : Nat), (∀ v rest, s.ioIn = v :: rest → x = v.setWidth W.bits) ∧
        s.Stored W (s.pointer d) x u ∧ exec (i d p r) s = .next
          { (u.setReg (s.offsetReg d) (s.reg (s.offsetReg d) + step)).setReg r (s.reg r - 1) with
              fcw := { s.fcw with z := z, pv := decide (s.reg r = 1) }
              pc := s.nextPc (!repeats || decide (s.reg r = 1))
              ioIn := s.ioIn.tail
              ioLog := s.ioLog ++ [⟨space, s.reg p, false, W, x.setWidth 16⟩]
              free := n })

/-- One block-output iteration in system mode: port register `d`, memory pointer `p`, counter `r` (48_io.md R271). -/
def OutputsElement (W : Width) (space : IoSpace) (step : Word) (repeats : Bool)
    (i : RegNo → RegNo → RegNo → Instr) : Prop :=
  ∀ (s : State) (d p r : RegNo), s.fcw.sys = true →
    (¬(r :: d :: s.pointerRegs p).Nodup → exec (i d p r) s = .refused .registerOverlap) ∧
    ((r :: d :: s.pointerRegs p).Nodup → ∀ v, s.read W (s.pointer p) = .next v →
      ∃ z n, exec (i d p r) s = .next
        { (s.setReg (s.offsetReg p) (s.reg (s.offsetReg p) + step)).setReg r (s.reg r - 1) with
            fcw := { s.fcw with z := z, pv := decide (s.reg r = 1) }
            pc := s.nextPc (!repeats || decide (s.reg r = 1))
            ioLog := s.ioLog ++ [⟨space, s.reg d, true, W, v.setWidth 16⟩]
            free := n })

/-- `f` is the FCW word `w` bit by bit (10_state.md R30); SEG is bit 15, but 0 on a Z8002 whose reserved bits read back as
zero (U3). -/
structure Fcw.Layout (par : Params) (w : Word) (f : Fcw) : Prop where
  seg  : par.variant = .z8001 ∨ par.fcwReserved = .readsBackWritten → f.seg = w.getLsbD 15
  seg0 : par.variant = .z8002 → par.fcwReserved = .readsBackZero → f.seg = false
  sys  : f.sys = w.getLsbD 14
  epa  : f.epa = w.getLsbD 13
  vie  : f.vie = w.getLsbD 12
  nvie : f.nvie = w.getLsbD 11
  c    : f.c = w.getLsbD 7
  z    : f.z = w.getLsbD 6
  s    : f.s = w.getLsbD 5
  pv   : f.pv = w.getLsbD 4
  da   : f.da = w.getLsbD 3
  h    : f.h = w.getLsbD 2

/-- MREQ found MI low: the request is not made, Z = 0, S = 0, MO high, the register unchanged (49_cpu_control.md R308). -/
def State.resourceBusy (s : State) : State := { s with fcw := { s.fcw with z := false, s := false }, mo := .high }

/-- MREQ found MI high and made the request: the register has counted down to 0, Z = 1, and the second sample `q` of MI decides:
low, S = 1 and MO stays low; high, S = 0 and MO is high again (49_cpu_control.md R308). -/
def State.resourceRequested (s : State) (d : RegNo) (q : Pin) : State :=
  { s.setReg d 0 with
      fcw := { s.fcw with z := true, s := decide (q = .low) }
      mo := if q = .low then .low else .high }

/-- POP and POPL: the value at the pointer goes to the destination, the pointer having moved (40_load_exchange.md R149). -/
def Pops (W : Width) (i : Dst → RegNo → Instr) : Prop :=
  ∀ (s : State) (dst : Dst) (p : RegNo) (v : BitVec W.bits), s.read W (s.pointer p) = .next v →
    (∀ k ∈ dstRegs W dst, k ∉ s.pointerRegs p) → s.CanWrite W dst →
    ∃ t, (match dst with
        | .reg k => t = (s.setReg (s.offsetReg p) (s.reg (s.offsetReg p) + BitVec.ofNat 16 W.bytes)).setRegW W k v
        | .mem m => (s.setReg (s.offsetReg p) (s.reg (s.offsetReg p) + BitVec.ofNat 16 W.bytes)).Stored W (s.ea m) v t) ∧
      exec (i dst p) s = .next t

/-- PUSH and PUSHL: the pointer moves down by the operand size and the value is stored there (40_load_exchange.md R150). -/
def Pushes (W : Width) (i : Instr) (p : RegNo) (v : BitVec W.bits) (s : State) : Prop :=
  s.CanStore W ((s.pointer p).add (-(BitVec.ofNat 16 W.bytes))) →
    ∃ t, (s.setReg (s.offsetReg p) (s.reg (s.offsetReg p) - BitVec.ofNat 16 W.bytes)).Stored W
        ((s.pointer p).add (-(BitVec.ofNat 16 W.bytes))) v t ∧
      exec i s = .next t

end Sys2Proof.Machine
end

