-- ==== Sys2Proof/Certificates/Slice0/Obligations.lean ====
section
/-! DEFINITION. The statements for the provers, by the spec's files: encoding, the step, the whole machine, registers and
memory, exceptions, then every family of the opcode table. The shapes they are written with stand in Safety.lean. In every
statement about `exec`, `s` is the state while the instruction executes, so `s.pc` is the address of the next instruction
(00_scope.md R14). -/

open Sys2Proof Sys2Proof.Machine

/-! ## Encoding and decoding (30_encoding.md) -/

/-- Words written out from the spec's encodings decode to the instructions they stand for: one and more of every family,
in both modes (30_encoding.md R120 to R124, R98; the examples of the instruction rules). -/
def Obligations.SpecWordsDecode : Prop :=
  decodeWords false [0x8D38] = .ok (.clr (.reg 3)) [] ∧
  decodeWords false [0x2101, 0x1234] = .ok (.ld 1 (.imm 0x1234)) [] ∧
  decodeWords false [0x1C21, 0x0E02] = .ok (.ldmLoad 14 (.ir 2) 2) [] ∧
  decodeWords false [0x93F3] = .ok (.push 15 (.reg 3)) [] ∧
  decodeWords false [0x8121] = .ok (.add 1 (.reg 2)) [] ∧
  decodeWords false [0x0B01, 0x0005] = .ok (.cp 1 (.imm 5)) [] ∧
  decodeWords false [0x9B52] = .ok (.div 2 (.reg 5)) [] ∧
  decodeWords false [0x0408, 0x8080] = .ok (.orb 8 (.imm 0x80)) [] ∧
  decodeWords false [0x5E06, 0x1234] = .ok (.jp .z (.da (.near 0x1234))) [] ∧
  decodeWords false [0xF283] = .ok (.djnz 2 3) [] ∧
  decodeWords false [0x7F12] = .ok (.sc 0x12) [] ∧
  decodeWords false [0x2302, 0x0100] = .ok (.resDyn 1 2) [] ∧
  decodeWords false [0xAF16] = .ok (.tcc .z 1) [] ∧
  decodeWords false [0xB312] = .ok (.rl 1 true) [] ∧
  decodeWords false [0xB319, 0xFFFE] = .ok (.sra 1 2) [] ∧
  decodeWords false [0xB31B, 0x0200] = .ok (.sda 1 2) [] ∧
  decodeWords false [0xBA14, 0x0286] = .ok (.cpirb 8 1 2 .z) [] ∧
  decodeWords false [0xBB21, 0x0310] = .ok (.ldir 1 2 3) [] ∧
  decodeWords false [0xB826, 0x043E] = .ok (.trtirb 2 3 4) [] ∧
  decodeWords false [0x3A84, 0x0020] = .ok (.inpb 8 (.direct 0x20)) [] ∧
  decodeWords false [0x3B22, 0x0310] = .ok (.otir 1 2 3) [] ∧
  decodeWords false [0x7C01] = .ok (.di true false) [] ∧
  decodeWords false [0x7D1A] = .ok (.ldctlWrite .fcw 1) [] ∧
  decodeWords false [0x0E00] = .ok (.epa .x0E 0) [] ∧
  decodeWords true [0x6101, 0x0512] = .ok (.ld 1 (.mem (.da (.short 5 0x12)))) [] ∧
  decodeWords true [0x6101, 0x8500, 0x1234] = .ok (.ld 1 (.mem (.da (.long 5 0x1234)))) []

/-- Decoding the encoding of a well-formed instruction gives it back, whatever follows it, with every operand at every value
the encoding admits. -/
def Obligations.DecodeOfEncodeIsTheInstruction : Prop :=
  ∀ (seg : Bool) (i : Instr) (rest : List Word), i.wf seg = true → decodeWords seg (encode i ++ rest) = .ok i rest

/-- What the decoder accepts is a well-formed instruction of one to five words, and the rest is what follows them. -/
def Obligations.DecodedInstructionIsWellFormed : Prop :=
  ∀ (seg : Bool) (ws rest : List Word) (i : Instr), decodeWords seg ws = .ok i rest →
    i.wf seg = true ∧ ∃ n, 1 ≤ n ∧ n ≤ 5 ∧ n ≤ ws.length ∧ rest = ws.drop n

/-- First words that name no instruction are rejected, whatever follows: the upper bytes R130 lists; in every group of the
opcode map each sub-opcode R120 to R124 do not list (one-operand byte and word, TESTL and LDM, sign extension, shift, I/O, %7B,
LDCTL); each fixed-zero field of a first word that is not zero (NOP, RET, CALL, LDPS, DAB, HALT, %7B, %7C) (30_encoding.md R130,
R131). The string and translate groups are in `MalformedSecondWordsAreRejected`. -/
def Obligations.ReservedWordsAreRejected : Prop :=
  ∀ (seg : Bool) (a b : BitVec 4) (rest : List Word),
    (∀ u ∈ [0x36#8, 0x38#8, 0x78#8, 0x7E#8, 0x9D#8, 0x9F#8, 0xB9#8, 0xBF#8],
      Rejected seg ((u ++ a ++ b) :: rest)) ∧
    (∀ u ∈ [0x0C#8, 0x4C#8, 0x8C#8], ∀ f ∈ [0x3#4, 0x7#4, 0xA#4, 0xB#4, 0xC#4, 0xD#4, 0xE#4, 0xF#4],
      Rejected seg ((u ++ a ++ f) :: rest)) ∧
    (∀ u ∈ [0x0C#8, 0x4C#8], Rejected seg ((u ++ a ++ 0x9#4) :: rest)) ∧
    Rejected seg ((0x8C#8 ++ a ++ 0x5#4) :: rest) ∧
    (∀ u ∈ [0x0D#8, 0x4D#8, 0x8D#8], ∀ f ∈ [0xA#4, 0xB#4, 0xC#4, 0xD#4, 0xE#4, 0xF#4],
      Rejected seg ((u ++ a ++ f) :: rest)) ∧
    (∀ u ∈ [0x0D#8, 0x4D#8], ∀ f ∈ [0x3#4, 0x7#4], Rejected seg ((u ++ a ++ f) :: rest)) ∧
    (∀ u ∈ [0x4D#8, 0x8D#8], Rejected seg ((u ++ a ++ 0x9#4) :: rest)) ∧
    (a ≠ 0 → Rejected seg ((0x8D#8 ++ a ++ 0x7#4) :: rest)) ∧
    (∀ u ∈ [0x1C#8, 0x5C#8], b ∉ [0x1#4, 0x8#4, 0x9#4] → Rejected seg ((u ++ a ++ b) :: rest)) ∧
    (b ≠ 8 → Rejected seg ((0x9C#8 ++ a ++ b) :: rest)) ∧
    (a ≠ 0 → Rejected seg ((0x9E#8 ++ a ++ b) :: rest)) ∧
    (∀ u ∈ [0x1F#8, 0x5F#8, 0x39#8, 0x79#8, 0xB0#8], b ≠ 0 → Rejected seg ((u ++ a ++ b) :: rest)) ∧
    (b ∉ [0x0#4, 0x7#4, 0xA#4] → Rejected seg ((0xB1#8 ++ a ++ b) :: rest)) ∧
    (∀ f ∈ [0x5#4, 0x7#4, 0xD#4, 0xF#4], Rejected seg ((0xB2#8 ++ a ++ f) :: rest)) ∧
    (∀ u ∈ [0x3A#8, 0x3B#8], ∀ f ∈ [0xC#4, 0xD#4, 0xE#4, 0xF#4], Rejected seg ((u ++ a ++ f) :: rest)) ∧
    (a ≠ 0 ∨ b ≠ 0 → Rejected seg ((0x7A#8 ++ a ++ b) :: rest)) ∧
    (b ∉ [0x0#4, 0x8#4, 0x9#4, 0xA#4, 0xD#4] → Rejected seg ((0x7B#8 ++ a ++ b) :: rest)) ∧
    (a ≠ 0 → b ≠ 0xD → Rejected seg ((0x7B#8 ++ a ++ b) :: rest)) ∧
    (a ≠ 0 ∨ b.getLsbD 3 = true → Rejected seg ((0x7C#8 ++ a ++ b) :: rest)) ∧
    (∀ f ∈ [0#4, 1#4, 8#4, 9#4], Rejected seg ((0x7D#8 ++ a ++ f) :: rest))

/-- Second opcode words that are not as their pattern has them are rejected, whatever follows: in the string and translate groups
any second word under a sub-opcode R122 and R123 do not list; everywhere a second word whose high nibble is not zero; and a second
word whose remaining fixed field differs (LDM, LDI and LDD, block I/O, translate, the dynamic bit and shift instructions, the BX
forms); and the byte bit instructions with a bit number or register field of 8 and more (30_encoding.md R96, R130, R131, U6,
44_bit.md R206). -/
def Obligations.MalformedSecondWordsAreRejected : Prop :=
  ∀ (seg : Bool) (a b : BitVec 4) (w : Word) (rest : List Word),
    (∀ u ∈ [0xBA#8, 0xBB#8], ∀ f ∈ [0x3#4, 0x5#4, 0x7#4, 0xB#4, 0xD#4, 0xF#4], Rejected seg ((u ++ a ++ f) :: w :: rest)) ∧
    (b.getLsbD 0 = true → Rejected seg ((0xB8#8 ++ a ++ b) :: w :: rest)) ∧
    (w.extractLsb' 12 4 ≠ 0 →
      (∀ u ∈ [0xB8#8, 0xBA#8, 0xBB#8], Rejected seg ((u ++ a ++ b) :: w :: rest)) ∧
      (∀ u ∈ [0x3A#8, 0x3B#8], ∀ f ∈ blockIoCodes, Rejected seg ((u ++ a ++ f) :: w :: rest))) ∧
    (w.extractLsb' 12 4 ≠ 0 ∨ w.extractLsb' 4 4 ≠ 0 →
      ∀ u ∈ [0x1C#8, 0x5C#8], ∀ f ∈ [0x1#4, 0x9#4], Rejected seg ((u ++ a ++ f) :: w :: rest)) ∧
    (w.extractLsb' 0 4 ≠ 0 → w.extractLsb' 0 4 ≠ 8 →
      (∀ u ∈ [0xBA#8, 0xBB#8], ∀ f ∈ [0x1#4, 0x9#4], Rejected seg ((u ++ a ++ f) :: w :: rest)) ∧
      (∀ u ∈ [0x3A#8, 0x3B#8], ∀ f ∈ blockIoCodes, Rejected seg ((u ++ a ++ f) :: w :: rest))) ∧
    (w.extractLsb' 0 4 ≠ 0 → ∀ f ∈ [0x0#4, 0x2#4, 0x4#4, 0x8#4, 0xA#4, 0xC#4],
      Rejected seg ((0xB8#8 ++ a ++ f) :: w :: rest)) ∧
    (w.extractLsb' 0 4 ≠ 0xE → ∀ f ∈ [0x6#4, 0xE#4], Rejected seg ((0xB8#8 ++ a ++ f) :: w :: rest)) ∧
    (w.extractLsb' 12 4 ≠ 0 ∨ w.extractLsb' 0 8 ≠ 0 →
      (∀ u ∈ [0x22#8, 0x23#8, 0x24#8, 0x25#8, 0x26#8, 0x27#8], Rejected seg ((u ++ 0#4 ++ b) :: w :: rest)) ∧
      (∀ f ∈ [0x3#4, 0xB#4], Rejected seg ((0xB2#8 ++ a ++ f) :: w :: rest)) ∧
      (∀ f ∈ [0x3#4, 0x7#4, 0xB#4, 0xF#4], Rejected seg ((0xB3#8 ++ a ++ f) :: w :: rest)) ∧
      (∀ u ∈ [0x70#8, 0x71#8, 0x72#8, 0x73#8, 0x74#8, 0x75#8, 0x77#8], Rejected seg ((u ++ a ++ b) :: w :: rest))) ∧
    (b.getLsbD 3 = true → ∀ u ∈ [0x22#8, 0x24#8, 0x26#8, 0x62#8, 0x64#8, 0x66#8, 0xA2#8, 0xA4#8, 0xA6#8],
      Rejected seg ((u ++ a ++ b) :: w :: rest))

/-! ## The step (00_scope.md R14, 70_reset_and_hazards.md) -/

/-- When the bytes at the program counter decode to an instruction, the step is that instruction at the state with the PC
moved past its words, and then the instruction boundary. -/
def Obligations.StepRunsTheDecodedInstruction : Prop :=
  ∀ (s : State) (i : Instr) (rest : List Word), s.resetReq = false → s.halted = false → s.pc.odd = false →
    decode s.segmented s.fetchBytes = .ok i rest →
    step s = Res.andThen (exec i (s.advance ((wordsOfBytes s.fetchBytes).length - rest.length))) (boundary s)

/-- When the bytes at the program counter are the encoding of a well-formed instruction, the step runs it with the PC right
after it, and then the instruction boundary. -/
def Obligations.StepRunsTheInstructionInMemory : Prop :=
  ∀ (s : State) (i : Instr), s.resetReq = false → s.halted = false → s.pc.odd = false → i.wf s.segmented = true →
    (∀ k (h : k < (encodeBytes i).length), s.readByte (s.pc.add (BitVec.ofNat 16 k)) = .next ((encodeBytes i)[k])) →
    step s = Res.andThen (exec i (s.advance (encode i).length)) (boundary s)

/-- Where no instruction runs. An odd program counter stops the fetch (20_memory.md R66; that the stop is a fault is log 6), and an
undefined encoding is refused (30_encoding.md R130). A halted machine only examines the boundary (49_cpu_control.md R303,
70_reset_and_hazards.md R398, D10): an NMI, or a VI that is enabled and has nothing before it, ends the halt and saves the PC, which
is the address after HALT; when nothing it can accept is presented the machine stays as it is. That what is presented is the head of
the list `events` is the model's choice (log 20). -/
def Obligations.StepsWithoutAnInstruction : Prop :=
  ∀ (s : State), s.resetReq = false →
    (s.halted = false → s.pc.odd = true → step s = .fault .oddPc) ∧
    (s.halted = false → s.pc.odd = false → decode s.segmented s.fetchBytes = .bad →
      step s = .refused .undefinedEncoding) ∧
    (s.halted = true → step s = boundary s s) ∧
    (s.halted = true → s.request.reset = false → ∀ (u : State) (id f : Word) (p : Addr),
      u = { s with events := s.events.tail, nmi := none } →
      (s.nmiLatch = some id → u.CanEnter .nmi id f p →
        ∃ t, step s = .next t ∧ u.Entered id s.pc f p t) ∧
      (s.nmiLatch = none → (s.isZ8001 = true → s.request.segt = none) → s.request.vi = some id → s.fcw.vie = true →
        u.CanEnter .vi id f p → ∃ t, step s = .next t ∧ u.Entered id s.pc f p t)) ∧
    (s.halted = true → s.nmi = none → s.request.reset = false → s.request.nmi = none →
      (s.isZ8001 = true → s.request.segt = none) → (s.request.vi ≠ none → s.fcw.vie = false) →
      (s.request.nvi ≠ none → s.fcw.nvie = false) → step s = .next { s with events := s.events.tail })

/-- The reset transition: not halted, no NMI latched, refresh disabled, MO high, FCW and PC from the reset locations, and
nothing else written (70_reset_and_hazards.md R380, R381, R383). That it is a step of its own (log 4), and that it uses up and
examines no presented event (log 20, 36), is the model's choice. -/
def Obligations.ResetTransition : Prop :=
  ∀ (s : State) (f : Word), s.resetReq = true → s.readWord ⟨0, 2⟩ = .next f →
    (s.isZ8001 = false → ∀ p, s.readWord ⟨0, 4⟩ = .next p → step s = .next
      { s with halted := false, nmi := none, refresh := s.refresh &&& 0x7FFF, mo := .high, fcw := .ofWord s.par f
               pc := ⟨0, p⟩, resetReq := false }) ∧
    (s.isZ8001 = true → ∀ sg off, s.readWord ⟨0, 4⟩ = .next sg → s.readWord ⟨0, 6⟩ = .next off → step s = .next
      { s with halted := false, nmi := none, refresh := s.refresh &&& 0x7FFF, mo := .high, fcw := .ofWord s.par f
               pc := ⟨sg.extractLsb' 8 7, off⟩, resetReq := false })

/-- What reset leaves: refresh disabled, MO high, not halted, no NMI latched, memory and I/O untouched, the reset transition
due (10_state.md R40, 70_reset_and_hazards.md R381), and the invariant. -/
def Obligations.ResetState : Prop :=
  State.reset.refresh.getLsbD 15 = false ∧ State.reset.mo = .high ∧ State.reset.halted = false ∧
    State.reset.nmi = none ∧ State.reset.mem = [] ∧ State.reset.ioLog = [] ∧ State.reset.resetReq = true ∧
    State.reset.Inv

/-- Every step keeps the invariant: memory in canonical form and inside the address space, the PC's segment and the FCW's
reserved bits as the variant has them. -/
def Obligations.StepKeepsTheInvariant : Prop :=
  ∀ (s t : State), s.Inv → step s = .next t → t.Inv

/-- At an instruction boundary a reset request comes first; then a latched NMI, a segment trap (Z8001), VI if enabled, NVI
if enabled; at most one is accepted, with the current PC saved (60_exceptions.md R343, R381). An enable bit counts when it is
set after the step and, with `EI_DELAY` = 1, was set before it (U15; that reading of the parameter is the model's, log 19). That
what is presented is the head of the list `events`, and that an NMI's identifier is latched with it, is the model's choice (log 20). -/
def Obligations.BoundaryAcceptsByPriority : Prop :=
  (∀ (par : Params) (x y : Bool), (par.eiDelay = .zero → enabled par x y = y) ∧
    (par.eiDelay = .one → enabled par x y = (x && y))) ∧
  ∀ (s t u : State) (vi nvi : Bool), u = { t with events := s.events.tail, nmi := s.nmiLatch } →
    vi = enabled s.par s.fcw.vie t.fcw.vie → nvi = enabled s.par s.fcw.nvie t.fcw.nvie →
    (s.request.reset = true → boundary s t = .next { u with resetReq := true }) ∧
    (s.request.reset = false → ∀ id, s.nmiLatch = some id → boundary s t = enter .nmi id t.pc { u with nmi := none }) ∧
    (s.request.reset = false → s.nmiLatch = none →
      (s.isZ8001 = true → ∀ id, s.request.segt = some id → boundary s t = enter .segmentTrap id t.pc u) ∧
      (s.isZ8001 = false ∨ s.request.segt = none →
        (∀ id, s.request.vi = some id → vi = true → boundary s t = enter .vi id t.pc u) ∧
        (s.request.vi = none ∨ vi = false →
          (∀ id, s.request.nvi = some id → nvi = true → boundary s t = enter .nvi id t.pc u) ∧
          (s.request.nvi = none ∨ nvi = false → boundary s t = .next u))))

/-! ## The whole machine: privilege and frames -/

/-- In normal mode every privileged instruction takes the privileged-instruction trap and has no effect of its own. The
identifier is its first word; the saved PC is the address of its first word plus 2, or that of the next instruction, as
`TRAP_PC_RULE` says, `s.pc` being the address of the next instruction (60_exceptions.md R332, R342, R346, R350, D25). That the
first word lies the length of the instruction's encoding before `s.pc` is log 18 (DEDUCED). -/
def Obligations.PrivilegedInstructionsTrapInNormalMode : Prop :=
  ∀ (s : State) (i : Instr) (first : Word) (others : List Word) (saved : Addr),
    isPrivileged i = true → s.fcw.sys = false → encode i = first :: others →
    (s.par.trapPcRule = .firstWordPlusTwo → saved = s.pc.add (-(BitVec.ofNat 16 (2 * others.length)))) →
    (s.par.trapPcRule = .nextInstruction → saved = s.pc) →
    exec i s = enter .privileged first saved s ∧
    ∀ f p, s.CanEnter .privileged first f p → ∃ t, exec i s = .next t ∧ s.Entered first saved f p t

/-- In normal mode no instruction changes the control byte of the FCW, the PSAP, REFRESH, the other stack pointers or the
MO pin, unless it takes a trap (60_exceptions.md R352). -/
def Obligations.NormalModeKeepsTheControlState : Prop :=
  ∀ (s t : State) (i : Instr), s.fcw.sys = false → s.traps i = false → exec i s = .next t →
    t.fcw.control = s.fcw.control ∧ t.psapSeg = s.psapSeg ∧ t.psapOff = s.psapOff ∧ t.refresh = s.refresh ∧
      t.mo = s.mo ∧ t.otherStack = s.otherStack ∧ t.halted = s.halted

/-- Every instruction that takes no trap and does not load the whole FCW keeps each flag for which the table of 10_state.md
R32 has "-", and the control bits except the interrupt enables, which only DI and EI change. -/
def Obligations.FlagsOutsideTheTableAreKept : Prop :=
  ∀ (s t : State) (i : Instr), s.traps i = false → loadsFcw i = false → exec i s = .next t →
    s.fcw.keeps t.fcw (flagsOf i) ∧
      ((∀ v n, i ≠ .di v n ∧ i ≠ .ei v n) → t.fcw.vie = s.fcw.vie ∧ t.fcw.nvie = s.fcw.nvie)

/-- Every instruction that takes no trap keeps each general register that is none of its destinations, pointers and
counters; one that loads the whole FCW keeps every copy of every register but the R15 that IRET pops from. -/
def Obligations.OtherRegistersAreKept : Prop :=
  ∀ (s t : State) (i : Instr), s.traps i = false → exec i s = .next t →
    (loadsFcw i = false → ∀ k, k ∉ s.dests i → t.reg k = s.reg k) ∧
    (loadsFcw i = true → i ≠ .iret → t.regs = s.regs ∧ t.nspSeg = s.nspSeg ∧ t.nspOff = s.nspOff) ∧
    (i = .iret → (∀ k : Fin 15, t.regs[k] = s.regs[k]) ∧ t.nspSeg = s.nspSeg ∧ t.nspOff = s.nspOff)

/-- Every instruction that takes no trap keeps each special register, pin, device queue and latch it is not there to write;
the stack pointers of the other mode change by LDCTL alone. -/
def Obligations.SpecialRegistersAreKept : Prop :=
  ∀ (s t : State) (i : Instr), s.traps i = false → exec i s = .next t →
    t.par = s.par ∧ t.nmi = s.nmi ∧ t.events = s.events ∧ t.resetReq = s.resetReq ∧
    ((∀ r, i ≠ .ldctlWrite .psapSeg r) → t.psapSeg = s.psapSeg) ∧
    ((∀ r, i ≠ .ldctlWrite .psapOff r) → t.psapOff = s.psapOff) ∧
    ((∀ r, i ≠ .ldctlWrite .refresh r) → t.refresh = s.refresh) ∧
    ((∀ c r, i ≠ .ldctlWrite c r) → i ≠ .iret → (∀ m, i ≠ .ldps m) → t.otherStack = s.otherStack) ∧
    ((∀ d, i ≠ .mreq d) → i ≠ .mres → i ≠ .mset → t.mo = s.mo) ∧
    (i ≠ .halt → t.halted = s.halted) ∧
    (usesIo i = false → t.ioLog = s.ioLog ∧ t.ioIn = s.ioIn) ∧
    (usesMi i = false → t.miIn = s.miIn)

/-- Every instruction that takes no trap leaves each byte of memory outside the bytes it stores to as it was; the address
stored to is computed as the instruction computes it. -/
def Obligations.OtherMemoryIsKept : Prop :=
  ∀ (s t : State) (i : Instr), s.traps i = false → exec i s = .next t →
    ∀ b : Addr, (∀ r ∈ s.stores i, ¬r.holds b) → t.readByte b = s.readByte b

/-! ## Registers, memory and addresses (10_state.md, 20_memory.md) -/

/-- A pair and a quadruple are their word registers, the first the most significant; a byte register is half of R0 to R7, by field
value 0 to 7 the high half and 8 to 15 the low half; and a 4-bit field names the register of the operand's width (10_state.md R22 to
R24). -/
def Obligations.RegisterViews : Prop :=
  ∀ (s : State) (k : RegNo),
    (k.toNat < 8 → s.byteReg k = (s.reg k).extractLsb' 8 8) ∧
    (8 ≤ k.toNat → s.byteReg k = (s.reg (k - 8)).extractLsb' 0 8) ∧
    s.longReg k = s.reg k ++ s.reg (k + 1) ∧
    s.quadReg k = s.reg k ++ s.reg (k + 1) ++ s.reg (k + 2) ++ s.reg (k + 3) ∧
    s.quadReg k = s.longReg k ++ s.longReg (k + 2) ∧
    s.regW .byte k = s.byteReg k ∧ s.regW .word k = s.reg k ∧ s.regW .long k = s.longReg k

/-- A register write: the register reads as the value, of every width; a byte write keeps the other half; a register of
another number keeps its value (10_state.md R22 to R24). -/
def Obligations.RegisterWrites : Prop :=
  ∀ (s : State) (k : RegNo),
    (∀ v : Word, (s.setReg k v).reg k = v ∧ (∀ j, j ≠ k → (s.setReg k v).reg j = s.reg j)) ∧
    (∀ v : Byte, (s.setByteReg k v).byteReg k = v ∧ (∀ j, j ≠ k → (s.setByteReg k v).byteReg j = s.byteReg j) ∧
      (∀ j, j ≠ byteHome k → (s.setByteReg k v).reg j = s.reg j)) ∧
    (∀ v : Long, (s.setLongReg k v).longReg k = v ∧
      (s.setLongReg k v).reg k = v.extractLsb' 16 16 ∧ (s.setLongReg k v).reg (k + 1) = v.extractLsb' 0 16 ∧
      (∀ j, j ≠ k → j ≠ k + 1 → (s.setLongReg k v).reg j = s.reg j)) ∧
    (∀ v : Quad, (s.setQuadReg k v).quadReg k = v ∧ (s.setQuadReg k v).longReg k = v.extractLsb' 32 32 ∧
      (s.setQuadReg k v).longReg (k + 2) = v.extractLsb' 0 32 ∧
      (∀ j, j ∉ quadRegs k → (s.setQuadReg k v).reg j = s.reg j))

/-- R15, and R14 on a Z8001, name the copies of the present mode: a write of any width changes no copy of the other mode, and
nothing but registers; every other register exists once (10_state.md R26, R35). -/
def Obligations.StackPointerCopies : Prop :=
  ∀ (s : State),
    (s.fcw.sys = true → s.reg 15 = s.regs[15] ∧ s.reg 14 = s.regs[14]) ∧
    (s.fcw.sys = false → s.reg 15 = s.nspOff ∧ s.reg 14 = if s.isZ8001 then s.nspSeg else s.regs[14]) ∧
    (∀ k : RegNo, k ≠ 14 → k ≠ 15 → s.reg k = s.regs[k.toNat]) ∧
    (∀ W k v, s.setRegW W k v = { s with regs := (s.setRegW W k v).regs, nspSeg := (s.setRegW W k v).nspSeg
                                         nspOff := (s.setRegW W k v).nspOff } ∧
      (s.setRegW W k v).otherStack = s.otherStack)

/-- A word has its high-order byte at the lower address, a long word its high-order word; reading after writing gives the
value written, every other byte keeps its value, and nothing but memory changes (20_memory.md R62, R64). -/
def Obligations.MemoryReadAfterWrite : Prop :=
  ∀ (s t : State) (W : Width) (a : Addr) (v : BitVec W.bits), s.write W a v = .next t →
    t = { s with mem := t.mem } ∧ t.read W a = .next v ∧
    (∀ b : Addr, (∀ i < W.bytes, b ≠ a.add (BitVec.ofNat 16 i)) → t.readByte b = s.readByte b) ∧
    (∀ i < W.bytes, t.readByte (a.add (BitVec.ofNat 16 i)) =
      .next (v.extractLsb' (8 * (W.bytes - 1 - i)) 8))

/-- A word or long access at an odd address is refused by a fault, an access outside the admitted addresses, a read of a byte
that holds no value, and a store into the word right after the instruction too (20_memory.md R65, R70, R82, 10_state.md
R41). -/
def Obligations.BadAccessesFault : Prop :=
  ∀ (s : State) (a : Addr),
    (a.odd = true → s.readWord a = .fault .oddAddress ∧ s.readLong a = .fault .oddAddress ∧
      (∀ v, s.writeWord a v = .fault .oddAddress) ∧ (∀ v, s.writeLong a v = .fault .oddAddress)) ∧
    (s.admits a = false → s.readByte a = .fault .absentMemory ∧ ∀ v, s.writeByte a v = .fault .absentMemory) ∧
    (s.admits a = true → s.mem.get a.key = none → s.readByte a = .fault .unwrittenMemory) ∧
    (∀ W v i, i < Width.bytes W → (a.add (BitVec.ofNat 16 i) = s.pc ∨ a.add (BitVec.ofNat 16 i) = s.pc.add 1) →
      s.store W a v = .fault .storeIntoNextWord)

/-- Address arithmetic acts on the 16-bit offset alone: it wraps, and the segment number never changes (20_memory.md R73);
it holds for the PC's advance (10_state.md R28), for every step of a pointer, and so for push and pop (20_memory.md R72), and for
every effective address (30_encoding.md R99, R100). The last two clauses say which segment and offset a register and an address
field name (20_memory.md R72, R74, 30_encoding.md R97, R98); that a non-segmented address takes the PC's segment in every use is
the model's reading of R74 (log 9). -/
def Obligations.AddressArithmetic : Prop :=
  ∀ (s : State) (a : Addr) (k : Word) (n : Nat),
    (a.add k).seg = a.seg ∧ (a.add k).off.toNat = (a.off.toNat + k.toNat) % 65536 ∧
    (∀ p, (s.stepPointer p k).pointer p = (s.pointer p).add k) ∧ s.eaRelative k = s.pc.add k ∧
    (s.advance n).pc.seg = s.pc.seg ∧ (s.advance n).pc.off.toNat = (s.pc.off.toNat + 2 * n) % 65536 ∧
    (∀ x f, s.ea (.x f x) = (s.fieldAddr f).add (s.reg x)) ∧
    (∀ p d, s.eaBased (.ba p d) = (s.ea (.ir p)).add d) ∧
    (∀ p x, s.eaBased (.bx p x) = (s.ea (.ir p)).add (s.reg x)) ∧
    (s.segmented = false → ∀ p w, s.ea (.ir p) = ⟨s.pc.seg, s.reg p⟩ ∧ s.ea (.da (.near w)) = ⟨s.pc.seg, w⟩) ∧
    (s.segmented = true → ∀ p g o w, s.ea (.ir p) = ⟨(s.longReg p).extractLsb' 24 7, (s.longReg p).extractLsb' 0 16⟩ ∧
      s.ea (.da (.short g o)) = ⟨g, o.setWidth 16⟩ ∧ s.ea (.da (.long g w)) = ⟨g, w⟩)

/-- A pop after a push on the same pointer gives the value back and restores the pointer, segment word and all
(20_memory.md R84). -/
def Obligations.PopAfterPush : Prop :=
  ∀ (s t : State) (W : Width) (p : RegNo) (v : BitVec W.bits), W ≠ .byte → s.push W p v = .next t →
    t.pop W p = .next (v, { s with mem := t.mem })

/-- The condition codes: the truth value of each of the sixteen codes, and negation by bit 3 of the code (30_encoding.md
R110). -/
def Obligations.ConditionCodes : Prop :=
  ∀ (f : Fcw),
    condHolds f (.ofCode 0b0000) = false ∧ condHolds f (.ofCode 0b1000) = true ∧
    condHolds f (.ofCode 0b0110) = f.z ∧ condHolds f (.ofCode 0b1110) = !f.z ∧
    condHolds f (.ofCode 0b0111) = f.c ∧ condHolds f (.ofCode 0b1111) = !f.c ∧
    condHolds f (.ofCode 0b1101) = !f.s ∧ condHolds f (.ofCode 0b0101) = f.s ∧
    condHolds f (.ofCode 0b0100) = f.pv ∧ condHolds f (.ofCode 0b1100) = !f.pv ∧
    condHolds f (.ofCode 0b1001) = !(f.s ^^ f.pv) ∧ condHolds f (.ofCode 0b0001) = (f.s ^^ f.pv) ∧
    condHolds f (.ofCode 0b1010) = !(f.z || (f.s ^^ f.pv)) ∧ condHolds f (.ofCode 0b0010) = (f.z || (f.s ^^ f.pv)) ∧
    condHolds f (.ofCode 0b1011) = (!f.c && !f.z) ∧ condHolds f (.ofCode 0b0011) = (f.c || f.z) ∧
    (∀ c : BitVec 4, condHolds f (.ofCode (c ^^^ 0b1000)) = !condHolds f (.ofCode c)) ∧
    (∀ cc : Cond, Cond.ofCode cc.code = cc)

/-! ## Exceptions (60_exceptions.md) -/

/-- The entry sequence, for every kind: system mode, the frame on the system stack, the new program status from the program
status area, not halted any more, and nothing else changed (60_exceptions.md R345); and where in the program status area: the base
from the upper byte of PSAPOFF, and on a Z8001 from bits 14..8 of PSAPSEG, the FCW at the offset of the kind, the PC right after it,
but for a VI at the place of its vector, the low byte of the identifier (R347). The sequence itself goes through where the frame covers
the word at `s.pc`: that it is no store of the interrupted instruction is the model's reading of R82 (log 10). -/
def Obligations.EntrySequence : Prop :=
  (∀ (s : State) (k : Entry) (id : Word) (pc : Addr) (f : Word) (p : Addr), s.CanEnter k id f p →
    ∃ t, enter k id pc s = .next t ∧ s.Entered id pc f p t) ∧
  (∀ (s : State),
    (s.isZ8001 = false → s.psaBase = ⟨0, s.psapOff.extractLsb' 8 8 ++ 0#8⟩) ∧
    (s.isZ8001 = true → s.psaBase = ⟨s.psapSeg.extractLsb' 8 7, s.psapOff.extractLsb' 8 8 ++ 0#8⟩)) ∧
  (Entry.fcwOffset .extended .z8002 = 4 ∧ Entry.fcwOffset .extended .z8001 = 10 ∧
    Entry.fcwOffset .privileged .z8002 = 8 ∧ Entry.fcwOffset .privileged .z8001 = 18 ∧
    Entry.fcwOffset .systemCall .z8002 = 12 ∧ Entry.fcwOffset .systemCall .z8001 = 26 ∧
    Entry.fcwOffset .segmentTrap .z8002 = 16 ∧ Entry.fcwOffset .segmentTrap .z8001 = 34 ∧
    Entry.fcwOffset .nmi .z8002 = 20 ∧ Entry.fcwOffset .nmi .z8001 = 42 ∧
    Entry.fcwOffset .nvi .z8002 = 24 ∧ Entry.fcwOffset .nvi .z8001 = 50 ∧
    Entry.fcwOffset .vi .z8002 = 28 ∧ Entry.fcwOffset .vi .z8001 = 58) ∧
  ∀ (id : Word),
    (∀ k v, k ≠ .vi → Entry.pcOffset k v id = Entry.fcwOffset k v + 2) ∧
    (Entry.pcOffset .vi .z8002 id).toNat = 30 + 2 * (id.extractLsb' 0 8).toNat ∧
    (Entry.pcOffset .vi .z8001 id).toNat = 60 + 2 * (id.extractLsb' 0 8).toNat

/-- SC takes the system-call trap in either mode: the identifier is the instruction word, the saved PC that of the next
instruction (43_program_control.md R197, 60_exceptions.md R333); where a push falls into the word right after it, it stops
(20_memory.md R82; that the stop is a fault is log 10). An extended instruction with FCW.EPA = 0 takes the
extended-instruction trap: the identifier is its first word; with FCW.EPA = 1 it is refused, under a name that says whether
`EPA_PRESENT` holds (60_exceptions.md R331, 30_encoding.md R133, 00_scope.md R8, D22; the two names are log 25). -/
def Obligations.SystemCallAndExtendedInstruction : Prop :=
  ∀ (s : State) (f : Word) (p : Addr),
    (∀ v : Byte, s.CanEnter .systemCall (0x7F#8 ++ v) f p → s.frameApart →
      ∃ t, exec (.sc v) s = .next t ∧ s.Entered (0x7F#8 ++ v) s.pc f p t) ∧
    (∀ v : Byte, ¬s.frameApart → exec (.sc v) s = .fault .storeIntoNextWord) ∧
    (∀ op x w, encode (.epa op x) = [w] → s.fcw.epa = false → s.CanEnter .extended w f p →
      ∃ t, exec (.epa op x) s = .next t ∧ s.Entered w s.pc f p t) ∧
    (∀ op x, s.fcw.epa = true →
      (s.par.epaPresent = false → exec (.epa op x) s = .refused .extendedInstruction) ∧
      (s.par.epaPresent = true → exec (.epa op x) s = .refused .extendedUnit))

/-- IRET in system mode discards the identifier and pops the FCW and the PC from the system stack; LDPS in system mode loads
them from memory, two words in non-segmented mode and four in segmented mode, of which the first does not count. The format
is that of the present segmentation mode (43_program_control.md R193, 49_cpu_control.md R306, 60_exceptions.md R349). -/
def Obligations.ProgramStatusLoads : Prop :=
  ∀ (s : State) (f : Word), s.fcw.sys = true →
    (s.segmented = false →
      (∀ p, s.readWord ((s.pointer 15).add 2) = .next f → s.readWord ((s.pointer 15).add 4) = .next p →
        exec .iret s = .next
          { s with regs := s.regs.set 15 (s.regs[15] + 6), fcw := .ofWord s.par f, pc := ⟨s.pc.seg, p⟩ }) ∧
      (∀ m p, s.readWord (s.ea m) = .next f → s.readWord ((s.ea m).add 2) = .next p →
        exec (.ldps m) s = .next { s with fcw := .ofWord s.par f, pc := ⟨s.pc.seg, p⟩ })) ∧
    (s.segmented = true →
      (∀ sg off, s.readWord ((s.pointer 14).add 2) = .next f → s.readWord ((s.pointer 14).add 4) = .next sg →
        s.readWord ((s.pointer 14).add 6) = .next off → exec .iret s = .next
          { s with regs := s.regs.set 15 (s.regs[15] + 8), fcw := .ofWord s.par f, pc := ⟨sg.extractLsb' 8 7, off⟩ }) ∧
      (∀ m sg off, s.readWord ((s.ea m).add 2) = .next f → s.readWord ((s.ea m).add 4) = .next sg →
        s.readWord ((s.ea m).add 6) = .next off →
        exec (.ldps m) s = .next { s with fcw := .ofWord s.par f, pc := ⟨sg.extractLsb' 8 7, off⟩ }))

/-- IRET undoes every entry: executed in the handler, in system mode (segmented on a Z8001) with the frame and the stack
pointer as the entry left them, it restores the saved FCW, the saved PC and every register (60_exceptions.md R349). -/
def Obligations.InterruptReturnUndoesTheEntry : Prop :=
  ∀ (s t : State) (k : Entry) (id : Word) (pc : Addr), s.fcwLegal → (s.isZ8001 = false → pc.seg = s.pc.seg) →
    enter k id pc s = .next t → t.fcw.sys = true → (s.isZ8001 = true → t.fcw.seg = true) →
    exec .iret t = .next { t with regs := s.regs, fcw := s.fcw, pc := pc }

/-! ## Load and exchange (40_load_exchange.md) -/

/-- LD, LDB, LDL, LDR, LDRB, LDRL to a register, and LDK: the operand, of the register's width, goes into the register, and
nothing else changes. -/
def Obligations.LoadsPutTheOperandInTheRegister : Prop :=
  ∀ (s : State) (d : RegNo),
    (∀ (src : Src .byte) v, s.readSrc src = .next v → exec (.ldb d src) s = .next (s.setByteReg d v)) ∧
    (∀ (src : Src .word) v, s.readSrc src = .next v → exec (.ld d src) s = .next (s.setReg d v)) ∧
    (∀ (src : Src .long) v, s.readSrc src = .next v → exec (.ldl d src) s = .next (s.setLongReg d v)) ∧
    (∀ b v, s.readByte (s.eaBased b) = .next v → exec (.ldbBased d b) s = .next (s.setByteReg d v)) ∧
    (∀ b v, s.readWord (s.eaBased b) = .next v → exec (.ldBased d b) s = .next (s.setReg d v)) ∧
    (∀ b v, s.readLong (s.eaBased b) = .next v → exec (.ldlBased d b) s = .next (s.setLongReg d v)) ∧
    (∀ x v, s.readByte (s.pc.add x) = .next v → exec (.ldrb d x) s = .next (s.setByteReg d v)) ∧
    (∀ x v, s.readWord (s.pc.add x) = .next v → exec (.ldr d x) s = .next (s.setReg d v)) ∧
    (∀ x v, s.readLong (s.pc.add x) = .next v → exec (.ldrl d x) s = .next (s.setLongReg d v)) ∧
    (∀ v, exec (.ldbShort d v) s = .next (s.setByteReg d v)) ∧
    (∀ n, exec (.ldk d n) s = .next (s.setReg d (n.setWidth 16)))

/-- LD, LDB, LDL, LDR, LDRB, LDRL to memory: the register or the immediate goes to the operand's address, and nothing else
changes. -/
def Obligations.StoresPutTheOperandInMemory : Prop :=
  ∀ (s : State) (r : RegNo),
    (∀ m, Stores .byte (.ldbStore m r) (s.ea m) (s.byteReg r) s) ∧
    (∀ m, Stores .word (.ldStore m r) (s.ea m) (s.reg r) s) ∧
    (∀ m, Stores .long (.ldlStore m r) (s.ea m) (s.longReg r) s) ∧
    (∀ b, Stores .byte (.ldbStoreBased b r) (s.eaBased b) (s.byteReg r) s) ∧
    (∀ b, Stores .word (.ldStoreBased b r) (s.eaBased b) (s.reg r) s) ∧
    (∀ b, Stores .long (.ldlStoreBased b r) (s.eaBased b) (s.longReg r) s) ∧
    (∀ x, Stores .byte (.ldrbStore x r) (s.pc.add x) (s.byteReg r) s) ∧
    (∀ x, Stores .word (.ldrStore x r) (s.pc.add x) (s.reg r) s) ∧
    (∀ x, Stores .long (.ldrlStore x r) (s.pc.add x) (s.longReg r) s) ∧
    (∀ m v, Stores .byte (.ldbStoreImm m v) (s.ea m) v s) ∧
    (∀ m v, Stores .word (.ldStoreImm m v) (s.ea m) v s)

/-- CLR and CLRB write zero; EX and EXB swap a register with the operand, whose address is taken before (R141, R142). -/
def Obligations.ClearAndExchange : Prop :=
  ∀ (s : State) (d : RegNo) (x : Dst),
    (s.CanWrite .byte x → ∃ t, s.Written .byte x 0 t ∧ exec (.clrb x) s = .next t) ∧
    (s.CanWrite .word x → ∃ t, s.Written .word x 0 t ∧ exec (.clr x) s = .next t) ∧
    (∀ v, s.readDst .byte x = .next v → s.CanWrite .byte x →
      ∃ t, s.Written .byte x (s.byteReg d) t ∧ exec (.exb d x) s = .next (t.setByteReg d v)) ∧
    (∀ v, s.readDst .word x = .next v → s.CanWrite .word x →
      ∃ t, s.Written .word x (s.reg d) t ∧ exec (.ex d x) s = .next (t.setReg d v))

/-- LDA and LDAR load the effective address, without any memory access: its offset into a word register in non-segmented
mode, the address with its reserved bits 0 into a pair in segmented mode (R144, R145). -/
def Obligations.AddressLoads : Prop :=
  ∀ (s : State) (d : RegNo) (i : Instr) (a : Addr),
    ((∃ f, i = .lda d f ∧ a = s.fieldAddr f) ∨ (∃ f x, i = .ldaIndexed d f x ∧ a = (s.fieldAddr f).add (s.reg x)) ∨
      (∃ p x, i = .ldaBased d (.ba p x) ∧ a = (s.pointer p).add x) ∨
      (∃ p x, i = .ldaBased d (.bx p x) ∧ a = (s.pointer p).add (s.reg x)) ∨
      (∃ x, i = .ldar d x ∧ a = s.pc.add x)) →
    (s.segmented = false → exec i s = .next (s.setReg d a.off)) ∧
    (s.segmented = true → exec i s = .next (s.setLongReg d (0#1 ++ a.seg ++ 0#8 ++ a.off)))

/-- LDM: the words from the operand's address on and consecutive registers, R0 after R15, in both directions; every other
register, every other byte and all else stay. A load of a register its own address uses is refused (R147). -/
def Obligations.LoadMultiple : Prop :=
  ∀ (s : State) (d : RegNo) (m : Mem) (n : BitVec 4),
    ((∃ k ∈ s.memRegs m, (k - d).toNat ≤ n.toNat) → exec (.ldmLoad d m n) s = .refused .ldmOverlap) ∧
    ((∀ k ∈ s.memRegs m, n.toNat < (k - d).toNat) →
      (∀ j ≤ n.toNat, ∃ w, s.readWord ((s.ea m).add (BitVec.ofNat 16 (2 * j))) = .next w) →
      ∃ t, exec (.ldmLoad d m n) s = .next t ∧
        (∀ j ≤ n.toNat, s.readWord ((s.ea m).add (BitVec.ofNat 16 (2 * j))) = .next (t.reg (d + BitVec.ofNat 4 j))) ∧
        (∀ k : RegNo, n.toNat < (k - d).toNat → t.reg k = s.reg k) ∧
        t = { s with regs := t.regs, nspSeg := t.nspSeg, nspOff := t.nspOff } ∧ t.otherStack = s.otherStack) ∧
    ((∀ j ≤ n.toNat, s.CanStore .word ((s.ea m).add (BitVec.ofNat 16 (2 * j)))) →
      ∃ t, exec (.ldmStore m d n) s = .next t ∧ t = { s with mem := t.mem } ∧
        (∀ j ≤ n.toNat, t.readWord ((s.ea m).add (BitVec.ofNat 16 (2 * j))) = .next (s.reg (d + BitVec.ofNat 4 j))) ∧
        (∀ b : Addr, (∀ i < 2 * (n.toNat + 1), b ≠ (s.ea m).add (BitVec.ofNat 16 i)) → t.readByte b = s.readByte b))

/-- POP, POPL, PUSH, PUSHL: the pointer moves by the operand size, a pop after the read and a push before the store; a
register operand that overlaps the pointer is refused (R149, R150). -/
def Obligations.PopAndPush : Prop :=
  Pops .word .pop ∧ Pops .long .popl ∧
  ∀ (s : State) (p : RegNo),
    (∀ (src : Src .word) v, s.readSrc src = .next v → (∀ k, src = .reg k → k ∉ s.pointerRegs p) →
      Pushes .word (.push p src) p v s) ∧
    (∀ (src : Dst) v, s.readDst .long src = .next v → (∀ k ∈ dstRegs .long src, k ∉ s.pointerRegs p) →
      Pushes .long (.pushl p src) p v s) ∧
    (∀ k, k ∈ s.pointerRegs p → exec (.pop (.reg k) p) s = .refused .stackPointerOverlap ∧
      exec (.push p (.reg k)) s = .refused .stackPointerOverlap) ∧
    (∀ k, k ∈ s.pointerRegs p ∨ k + 1 ∈ s.pointerRegs p →
      exec (.popl (.reg k) p) s = .refused .stackPointerOverlap ∧
      exec (.pushl p (.reg k)) s = .refused .stackPointerOverlap)

/-! ## Arithmetic (41_arithmetic.md) -/

/-- ADD, ADDB, ADDL, ADC, ADCB, SUB, SUBB, SUBL, SBC, SBCB: the sum or difference modulo 2^W; C the carry or borrow, V the signed
overflow, Z and S of the result; the byte forms write DA and H (R160 to R162, R171, R172). -/
def Obligations.AdditionsAndSubtractions : Prop :=
  ∀ (s : State) (d r : RegNo),
    (∀ src v, s.readSrc src = .next v →
      Adds .byte (.addb d src) d v false s ∧ Subtracts .byte (.subb d src) d v false s) ∧
    (∀ src v, s.readSrc src = .next v →
      Adds .word (.add d src) d v false s ∧ Subtracts .word (.sub d src) d v false s) ∧
    (∀ src v, s.readSrc src = .next v →
      Adds .long (.addl d src) d v false s ∧ Subtracts .long (.subl d src) d v false s) ∧
    Adds .byte (.adcb d r) d (s.byteReg r) s.fcw.c s ∧ Adds .word (.adc d r) d (s.reg r) s.fcw.c s ∧
    Subtracts .byte (.sbcb d r) d (s.byteReg r) s.fcw.c s ∧ Subtracts .word (.sbc d r) d (s.reg r) s.fcw.c s

/-- CP, CPB, CPL: C, Z, S and V as the subtraction would set them, so that the signed conditions then order the operands as
signed integers and the unsigned ones as natural numbers; neither operand is written, DA and H stay (R163, R173, 30_encoding.md
R110). -/
def Obligations.Comparisons : Prop :=
  ∀ (s : State) (d : RegNo),
    (∀ (src : Src .byte) v, s.readSrc src = .next v → Compares (.cpb d src) (s.byteReg d) v s) ∧
    (∀ (src : Src .word) v, s.readSrc src = .next v → Compares (.cp d src) (s.reg d) v s) ∧
    (∀ (src : Src .long) v, s.readSrc src = .next v → Compares (.cpl d src) (s.longReg d) v s) ∧
    (∀ m v a, s.readByte (s.ea m) = .next a → Compares (.cpbImm m v) a v s) ∧
    (∀ m v a, s.readWord (s.ea m) = .next a → Compares (.cpImm m v) a v s)

/-- INC, INCB, DEC, DECB by 1 to 16, and NEG, NEGB: the result modulo 2^W written back; V the signed overflow, Z and S of the
result; INC and DEC leave C, NEG sets it unless the result is 0 (R165, R168, R170). -/
def Obligations.IncrementDecrementNegate : Prop :=
  ∀ (s : State) (dst : Dst) (n : BitVec 4),
    Modifies .byte (.incb dst n) dst (fun v => v + BitVec.ofNat 8 (n.toNat + 1))
      (fun v => s.fcw.arithOf (v + BitVec.ofNat 8 (n.toNat + 1)) s.fcw.c (BitVec.toInt v + (n.toNat + 1))) s ∧
    Modifies .word (.inc dst n) dst (fun v => v + BitVec.ofNat 16 (n.toNat + 1))
      (fun v => s.fcw.arithOf (v + BitVec.ofNat 16 (n.toNat + 1)) s.fcw.c (BitVec.toInt v + (n.toNat + 1))) s ∧
    Modifies .byte (.decb dst n) dst (fun v => v - BitVec.ofNat 8 (n.toNat + 1))
      (fun v => s.fcw.arithOf (v - BitVec.ofNat 8 (n.toNat + 1)) s.fcw.c (BitVec.toInt v - (n.toNat + 1))) s ∧
    Modifies .word (.dec dst n) dst (fun v => v - BitVec.ofNat 16 (n.toNat + 1))
      (fun v => s.fcw.arithOf (v - BitVec.ofNat 16 (n.toNat + 1)) s.fcw.c (BitVec.toInt v - (n.toNat + 1))) s ∧
    Modifies .byte (.negb dst) dst (fun v => -v)
      (fun v => s.fcw.arithOf (-v) (decide (v ≠ 0)) (-(BitVec.toInt v))) s ∧
    Modifies .word (.neg dst) dst (fun v => -v)
      (fun v => s.fcw.arithOf (-v) (decide (v ≠ 0)) (-(BitVec.toInt v))) s

/-- DAB after a byte addition or subtraction of two BCD bytes, with carry or borrow in, leaves the two BCD digits of the decimal
result and its carry or borrow in C. On any byte and any flags it completes and changes only its register, C, Z and S: where
the table of R164 has no row, those are any value. -/
def Obligations.DecimalAdjust : Prop :=
  ∀ (s : State) (d : RegNo),
    (∃ x c z sg n, exec (.dab d) s = .next
      { s.setByteReg d x with fcw := { s.fcw with c := c, z := z, s := sg }, free := n }) ∧
    (∀ (f : Fcw) (a b : Byte) (c : Bool), isBcd a → isBcd b →
      s.byteReg d = a + b + BitVec.ofNat 8 c.toNat → s.fcw = f.sumOf .byte a b c →
      ∃ x k, isBcd x ∧ bcdValue x + 100 * k.toNat = bcdValue a + bcdValue b + c.toNat ∧ exec (.dab d) s = .next
        { s.setByteReg d x with fcw := { s.fcw with c := k, z := decide (x = 0), s := x.msb } }) ∧
    (∀ (f : Fcw) (a b : Byte) (c : Bool), isBcd a → isBcd b →
      s.byteReg d = a - b - BitVec.ofNat 8 c.toNat → s.fcw = f.differenceOf .byte a b c →
      ∃ x k, isBcd x ∧ bcdValue x + bcdValue b + c.toNat = bcdValue a + 100 * k.toNat ∧ exec (.dab d) s = .next
        { s.setByteReg d x with fcw := { s.fcw with c := k, z := decide (x = 0), s := x.msb } })

/-- MULT and MULTL: the double-length register holds the exact signed product of its old low-order half and the source; C says
whether the product needs more than the low-order half, V is 0 (R169). -/
def Obligations.Multiplication : Prop :=
  ∀ (s : State) (d : RegNo),
    (∀ (src : Src .word) v, s.readSrc src = .next v → ∃ r : Long,
      r.toInt = (s.reg (d + 1)).toInt * BitVec.toInt v ∧ exec (.mult d src) s = .next { s.setLongReg d r with
        fcw := { s.fcw with c := tooLong 16 r.toInt, z := decide (r = 0), s := decide (r.toInt < 0), pv := false } }) ∧
    (∀ (src : Src .long) v, s.readSrc src = .next v → ∃ r : Quad,
      r.toInt = (s.longReg (d + 2)).toInt * BitVec.toInt v ∧ exec (.multl d src) s = .next { s.setQuadReg d r with
        fcw := { s.fcw with c := tooLong 32 r.toInt, z := decide (r = 0), s := decide (r.toInt < 0), pv := false } })

/-- DIV and DIVL, with dividend = q * divisor + rem, |rem| < |divisor| and rem of the dividend's sign: the four cases of R166.
The quotient goes to the low-order half and the remainder to the high-order half; after an overflow the destination and S
are any value. -/
def Obligations.Division : Prop :=
  ∀ (s : State) (d : RegNo),
    (∀ (src : Src .word) v, s.readSrc src = .next v →
      (BitVec.toInt v = 0 → exec (.div d src) s = .next
        { s with fcw := { s.fcw with c := false, z := true, s := false, pv := true } }) ∧
      (∀ q rem, IsQuotient (s.longReg d).toInt (BitVec.toInt v) q rem →
        (tooLong 17 q = false → exec (.div d src) s = .next
          { s.setLongReg d (BitVec.ofInt 16 rem ++ BitVec.ofInt 16 q) with
            fcw := { s.fcw with c := tooLong 16 q, z := decide (q = 0), s := decide (q < 0), pv := tooLong 16 q } }) ∧
        (tooLong 17 q = true → ∃ x sg n, exec (.div d src) s = .next
          { s.setLongReg d x with fcw := { s.fcw with c := false, z := false, s := sg, pv := true }, free := n }))) ∧
    (∀ (src : Src .long) v, s.readSrc src = .next v →
      (BitVec.toInt v = 0 → exec (.divl d src) s = .next
        { s with fcw := { s.fcw with c := false, z := true, s := false, pv := true } }) ∧
      (∀ q rem, IsQuotient (s.quadReg d).toInt (BitVec.toInt v) q rem →
        (tooLong 33 q = false → exec (.divl d src) s = .next
          { s.setQuadReg d (BitVec.ofInt 32 rem ++ BitVec.ofInt 32 q) with
            fcw := { s.fcw with c := tooLong 32 q, z := decide (q = 0), s := decide (q < 0), pv := tooLong 32 q } }) ∧
        (tooLong 33 q = true → ∃ x sg n, exec (.divl d src) s = .next
          { s.setQuadReg d x with fcw := { s.fcw with c := false, z := false, s := sg, pv := true }, free := n })))

/-- EXTSB, EXTS, EXTSL: the register holds its low-order half's signed value in full length, the low-order half itself stays,
and nothing else changes (R167). -/
def Obligations.SignExtension : Prop :=
  ∀ (s : State) (d : RegNo),
    (∃ r : Word, r.extractLsb' 0 8 = (s.reg d).extractLsb' 0 8 ∧ r.toInt = ((s.reg d).extractLsb' 0 8).toInt ∧
      exec (.extsb d) s = .next (s.setReg d r)) ∧
    (∃ r : Long, r.extractLsb' 0 16 = s.reg (d + 1) ∧ r.toInt = (s.reg (d + 1)).toInt ∧
      exec (.exts d) s = .next (s.setLongReg d r)) ∧
    (∃ r : Quad, r.extractLsb' 0 32 = s.longReg (d + 2) ∧ r.toInt = (s.longReg (d + 2)).toInt ∧
      exec (.extsl d) s = .next (s.setQuadReg d r))

/-! ## Logical (42_logical.md) -/

/-- AND, OR, XOR, COM, TEST and their byte and long forms: the bitwise result; Z and S of it, P for a byte only, everything
else kept (R180 to R185). -/
def Obligations.Logical : Prop :=
  ∀ (s : State) (d : RegNo) (dst : Dst),
    (∀ (src : Src .byte) v, s.readSrc src = .next v →
      Logics .byte (.andb d src) d (s.byteReg d &&& v) s ∧ Logics .byte (.orb d src) d (s.byteReg d ||| v) s ∧
      Logics .byte (.xorb d src) d (s.byteReg d ^^^ v) s) ∧
    (∀ (src : Src .word) v, s.readSrc src = .next v →
      Logics .word (.and d src) d (s.reg d &&& v) s ∧ Logics .word (.or d src) d (s.reg d ||| v) s ∧
      Logics .word (.xor d src) d (s.reg d ^^^ v) s) ∧
    Modifies .byte (.comb dst) dst (fun v => ~~~v) (fun v => s.fcw.logicOf .byte (~~~v)) s ∧
    Modifies .word (.com dst) dst (fun v => ~~~v) (fun v => s.fcw.logicOf .word (~~~v)) s ∧
    (∀ v, s.readDst .byte dst = .next v → exec (.testb dst) s = .next { s with fcw := s.fcw.logicOf .byte v }) ∧
    (∀ v, s.readDst .word dst = .next v → exec (.test dst) s = .next { s with fcw := s.fcw.logicOf .word v }) ∧
    (∀ v, s.readDst .long dst = .next v → exec (.testl dst) s = .next { s with fcw := s.fcw.logicOf .long v })

/-! ## Program control (43_program_control.md) -/

/-- CALL and CALR push the address of the next instruction and go to the target, computed before the push; CALR's displacement
is doubled and subtracted; RET pops the PC from the processor stack if the condition holds, and does nothing if it does not
(R190, R191, R196). -/
def Obligations.CallsAndReturns : Prop :=
  ∀ (s : State) (cc : Cond),
    (∀ m, Calls (.call m) (s.ea m) s) ∧ (∀ p : BitVec 12, Calls (.calr p) (s.pc.add (-(2 * p.signExtend 16))) s) ∧
    (condHolds s.fcw cc = false → exec (.ret cc) s = .next s) ∧
    (condHolds s.fcw cc = true → s.segmented = false → ∀ p, s.readWord (s.pointer 15) = .next p →
      exec (.ret cc) s = .next { s.setReg 15 (s.reg 15 + 2) with pc := ⟨s.pc.seg, p⟩ }) ∧
    (condHolds s.fcw cc = true → s.segmented = true → ∀ sg off, s.readWord (s.pointer 14) = .next sg →
      s.readWord ((s.pointer 14).add 2) = .next off →
      exec (.ret cc) s = .next { s.setReg 15 (s.reg 15 + 4) with pc := ⟨sg.extractLsb' 8 7, off⟩ })

/-- RET right after CALL or CALR restores the PC and the stack pointer, and leaves every other register and flag as before
the call (R190, R191, R196). -/
def Obligations.ReturnUndoesCall : Prop :=
  ∀ (s t : State) (i : Instr), ((∃ m, i = .call m) ∨ ∃ p, i = .calr p) → i.wf s.segmented = true →
    exec i s = .next t → exec (.ret .t) t = .next { s with mem := t.mem }

/-- JP, JR: the PC becomes the target if the condition holds, else nothing changes; DJNZ, DBJNZ: the counter is decremented and
the PC moves back by twice the displacement unless the counter is then 0, no flag changing (R192, R194, R195). -/
def Obligations.Jumps : Prop :=
  ∀ (s : State) (r : RegNo) (cc : Cond),
    (∀ m, exec (.jp cc m) s = .next (if condHolds s.fcw cc then { s with pc := s.ea m } else s)) ∧
    (∀ p : BitVec 8, exec (.jr cc p) s =
      .next (if condHolds s.fcw cc then { s with pc := s.pc.add (2 * p.signExtend 16) } else s)) ∧
    (∀ p : BitVec 7,
      (s.reg r = 1 → exec (.djnz r p) s = .next (s.setReg r 0)) ∧
      (s.reg r ≠ 1 → exec (.djnz r p) s =
        .next { s.setReg r (s.reg r - 1) with pc := s.pc.add (-(2 * (0#9 ++ p))) }) ∧
      (s.byteReg r = 1 → exec (.dbjnz r p) s = .next (s.setByteReg r 0)) ∧
      (s.byteReg r ≠ 1 → exec (.dbjnz r p) s =
        .next { s.setByteReg r (s.byteReg r - 1) with pc := s.pc.add (-(2 * (0#9 ++ p))) }))

/-! ## Bit manipulation (44_bit.md) -/

/-- BIT, RES, SET and their byte forms, static and dynamic: the one bit tested, cleared or set; the dynamic number is the low
3 bits of the register for a byte, the low 4 for a word (R204 to R207). TCC and TCCB set bit 0 of the register if the condition
holds and change nothing if it does not; TSET and TSETB copy the most significant bit to S and set the whole operand to ones
(R208, R209). -/
def Obligations.Bits : Prop :=
  ∀ (s : State) (dst : Dst) (d r : RegNo) (n : BitVec 3) (m : BitVec 4) (cc : Cond),
    (TestsBit .byte (.bitb dst n) dst n.toNat s ∧ TestsBit .word (.bit dst m) dst m.toNat s ∧
      TestsBit .byte (.bitbDyn d r) (.reg d) ((s.reg r).toNat % 8) s ∧
      TestsBit .word (.bitDyn d r) (.reg d) ((s.reg r).toNat % 16) s) ∧
    (ChangesBit .byte (.resb dst n) dst n.toNat false s ∧ ChangesBit .word (.res dst m) dst m.toNat false s ∧
      ChangesBit .byte (.resbDyn d r) (.reg d) ((s.reg r).toNat % 8) false s ∧
      ChangesBit .word (.resDyn d r) (.reg d) ((s.reg r).toNat % 16) false s) ∧
    (ChangesBit .byte (.setb dst n) dst n.toNat true s ∧ ChangesBit .word (.set dst m) dst m.toNat true s ∧
      ChangesBit .byte (.setbDyn d r) (.reg d) ((s.reg r).toNat % 8) true s ∧
      ChangesBit .word (.setDyn d r) (.reg d) ((s.reg r).toNat % 16) true s) ∧
    (condHolds s.fcw cc = false → exec (.tccb cc d) s = .next s ∧ exec (.tcc cc d) s = .next s) ∧
    (condHolds s.fcw cc = true →
      (∃ v, BitChanged (s.byteReg d) v 0 true ∧ exec (.tccb cc d) s = .next (s.setByteReg d v)) ∧
      (∃ v, BitChanged (s.reg d) v 0 true ∧ exec (.tcc cc d) s = .next (s.setReg d v))) ∧
    Modifies .byte (.tsetb dst) dst (fun _ => 0xFF#8) (fun v => { s.fcw with s := decide (BitVec.toInt v < 0) }) s ∧
    Modifies .word (.tset dst) dst (fun _ => 0xFFFF#16) (fun v => { s.fcw with s := decide (BitVec.toInt v < 0) }) s

/-! ## Rotate and shift (45_rotate_shift.md) -/

/-- RL, RR, RLC, RRC and their byte forms by one or two positions: the plain rotates turn the register and copy the bit that
moved around to C; those through carry turn the (W+1)-bit number of C and the register (R213, R216, R217, R219, R220). -/
def Obligations.Rotates : Prop :=
  ∀ (s : State) (d : RegNo) (twice : Bool) (b : Byte) (w : Word) (xb : BitVec 9) (xw : BitVec 17),
    b = s.byteReg d → w = s.reg d → xb = BitVec.ofBool s.fcw.c ++ b → xw = BitVec.ofBool s.fcw.c ++ w →
    Turns .byte (.rlb d twice) d twice (b.rotateLeft 1) (b.rotateLeft 2) (b.getLsbD 7) (b.getLsbD 6) s ∧
    Turns .word (.rl d twice) d twice (w.rotateLeft 1) (w.rotateLeft 2) (w.getLsbD 15) (w.getLsbD 14) s ∧
    Turns .byte (.rrb d twice) d twice (b.rotateRight 1) (b.rotateRight 2) (b.getLsbD 0) (b.getLsbD 1) s ∧
    Turns .word (.rr d twice) d twice (w.rotateRight 1) (w.rotateRight 2) (w.getLsbD 0) (w.getLsbD 1) s ∧
    Turns .byte (.rlcb d twice) d twice ((xb.rotateLeft 1).setWidth 8) ((xb.rotateLeft 2).setWidth 8)
      (xb.rotateLeft 1).msb (xb.rotateLeft 2).msb s ∧
    Turns .word (.rlc d twice) d twice ((xw.rotateLeft 1).setWidth 16) ((xw.rotateLeft 2).setWidth 16)
      (xw.rotateLeft 1).msb (xw.rotateLeft 2).msb s ∧
    Turns .byte (.rrcb d twice) d twice ((xb.rotateRight 1).setWidth 8) ((xb.rotateRight 2).setWidth 8)
      (xb.rotateRight 1).msb (xb.rotateRight 2).msb s ∧
    Turns .word (.rrc d twice) d twice ((xw.rotateRight 1).setWidth 16) ((xw.rotateRight 2).setWidth 16)
      (xw.rotateRight 1).msb (xw.rotateRight 2).msb s

/-- RLDB and RRDB turn the three digits "link's low, source's high, source's low"; Z from the link, S any value; one register as
link and source is refused; RRDB undoes RLDB on the registers (R218, R221). -/
def Obligations.DigitRotates : Prop :=
  ∀ (s : State) (l r : RegNo) (x y : Byte), x = s.byteReg l → y = s.byteReg r →
    (l = r → exec (.rldb l r) s = .refused .sameDigitRegister ∧ exec (.rrdb l r) s = .refused .sameDigitRegister) ∧
    (l ≠ r → ∃ (link src : Byte) (sg : Bool) (n : Nat), link = x.extractLsb' 4 4 ++ y.extractLsb' 4 4 ∧ src = y.extractLsb' 0 4 ++ x.extractLsb' 0 4 ∧
      exec (.rldb l r) s = .next { (s.setByteReg r src).setByteReg l link with
        fcw := { s.fcw with z := decide (link = 0), s := sg }, free := n }) ∧
    (l ≠ r → ∃ (link src : Byte) (sg : Bool) (n : Nat), link = x.extractLsb' 4 4 ++ y.extractLsb' 0 4 ∧ src = x.extractLsb' 0 4 ++ y.extractLsb' 4 4 ∧
      exec (.rrdb l r) s = .next { (s.setByteReg r src).setByteReg l link with
        fcw := { s.fcw with z := decide (link = 0), s := sg }, free := n }) ∧
    (∀ t u, exec (.rldb l r) s = .next t → exec (.rrdb l r) t = .next u → ∀ k, u.reg k = s.reg k)

/-- SLA, SLL, SRA, SRL of every width, by the counts their encodings admit: the shifted value, C the last bit moved out, V the
signed overflow of SLA and 0 of SRA; C of a shift by 0 and V of the logical ones are any value (R214, R224 to R227). -/
def Obligations.StaticShifts : Prop :=
  ∀ (s : State) (d : RegNo) (n : Nat),
    (n ≤ 8 →
      (∃ t, exec (.slab d n) s = .next t ∧ ShiftedLeft .byte true d n s t) ∧
      (∃ t, exec (.sllb d n) s = .next t ∧ ShiftedLeft .byte false d n s t) ∧
      (1 ≤ n → ∃ t, exec (.srab d n) s = .next t ∧ ShiftedRight .byte true d n s t) ∧
      (1 ≤ n → ∃ t, exec (.srlb d n) s = .next t ∧ ShiftedRight .byte false d n s t)) ∧
    (n ≤ 16 →
      (∃ t, exec (.sla d n) s = .next t ∧ ShiftedLeft .word true d n s t) ∧
      (∃ t, exec (.sll d n) s = .next t ∧ ShiftedLeft .word false d n s t) ∧
      (1 ≤ n → ∃ t, exec (.sra d n) s = .next t ∧ ShiftedRight .word true d n s t) ∧
      (1 ≤ n → ∃ t, exec (.srl d n) s = .next t ∧ ShiftedRight .word false d n s t)) ∧
    (n ≤ 32 →
      (∃ t, exec (.slal d n) s = .next t ∧ ShiftedLeft .long true d n s t) ∧
      (∃ t, exec (.slll d n) s = .next t ∧ ShiftedLeft .long false d n s t) ∧
      (1 ≤ n → ∃ t, exec (.sral d n) s = .next t ∧ ShiftedRight .long true d n s t) ∧
      (1 ≤ n → ∃ t, exec (.srll d n) s = .next t ∧ ShiftedRight .long false d n s t))

/-- SDA and SDL of every width shift left for a count from 0 to W and right for one from -1 to -W; outside that range the
instruction completes and the result and C, Z, S, V are any value (R222, R223, R214). That it completes there is the model's choice
between the two treatments D13 and U7 offer (log 12). -/
def Obligations.DynamicShifts : Prop :=
  ∀ (s : State) (d r : RegNo),
    ShiftsDynamically .byte true (.sdab d r) d r s ∧ ShiftsDynamically .word true (.sda d r) d r s ∧
    ShiftsDynamically .long true (.sdal d r) d r s ∧ ShiftsDynamically .byte false (.sdlb d r) d r s ∧
    ShiftsDynamically .word false (.sdl d r) d r s ∧ ShiftsDynamically .long false (.sdll d r) d r s

/-! ## Block transfer and string compare (46_block_string.md), translate (47_translate.md) -/

/-- One iteration of CPI, CPD, CPIR, CPDR (register minus element) and of CPSI, CPSD, CPSIR, CPSDR (destination element minus
source element) and their byte forms: Z says whether the condition holds, the pointers and the counter move, V says whether the
counter is exhausted, C and S are any value; a repeating form stays at itself until Z or V (R252, R253, R235 to R237); overlapping
registers are refused (R238). The model's readings: an iteration is a step (D14, log 30); a compared byte register counts as its word
register (D17, log 24). -/
def Obligations.BlockCompares : Prop :=
  (Searches .byte 1 false .cpib ∧ Searches .byte 1 true .cpirb ∧ Searches .byte (-1) false .cpdb ∧
    Searches .byte (-1) true .cpdrb ∧ Searches .word 2 false .cpi ∧ Searches .word 2 true .cpir ∧
    Searches .word (-2) false .cpd ∧ Searches .word (-2) true .cpdr) ∧
  (ComparesStrings .byte 1 false .cpsib ∧ ComparesStrings .byte 1 true .cpsirb ∧
    ComparesStrings .byte (-1) false .cpsdb ∧ ComparesStrings .byte (-1) true .cpsdrb ∧
    ComparesStrings .word 2 false .cpsi ∧ ComparesStrings .word 2 true .cpsir ∧
    ComparesStrings .word (-2) false .cpsd ∧ ComparesStrings .word (-2) true .cpsdr)

/-- One iteration of LDI, LDD, LDIR, LDDR and their byte forms: the element at the source pointer is stored at the destination
pointer, both pointers and the counter move, V says whether the counter is exhausted, Z is any value, a repeating form
stays at itself until then, overlapping registers are refused (R254, R235 to R238). That an iteration is a step is D14 (log 30), which
registers overlap is the model's reading of D17 (log 24). -/
def Obligations.BlockMove : Prop :=
  MovesElement .byte 1 false .ldib ∧ MovesElement .byte 1 true .ldirb ∧ MovesElement .byte (-1) false .lddb ∧
  MovesElement .byte (-1) true .lddrb ∧ MovesElement .word 2 false .ldi ∧ MovesElement .word 2 true .ldir ∧
  MovesElement .word (-2) false .ldd ∧ MovesElement .word (-2) true .lddr

/-- One iteration of the eight translate instructions: the table entry of the byte at the string pointer replaces that byte, or
goes to RH1 with Z saying whether it is 0; pointer, counter and V; a repeating form stays at itself until it is finished
(47_translate.md R255, R257, R266, R267, 46_block_string.md R236). The registers refused, R0 and R1 in segmented mode among them, are
the model's reading of R256 and D17 (log 24); that an iteration is a step is D14 (log 30). -/
def Obligations.Translate : Prop :=
  Translates 1 false .trib ∧ Translates 1 true .trirb ∧ Translates (-1) false .trdb ∧ Translates (-1) true .trdrb ∧
  TranslatesAndTests 1 false .trtib ∧ TranslatesAndTests 1 true .trtirb ∧ TranslatesAndTests (-1) false .trtdb ∧
  TranslatesAndTests (-1) true .trtdrb

/-! ## Input and output (48_io.md) -/

/-- IN, INB, SIN, SINB, OUT, OUTB, SOUT, SOUTB in system mode: one access to the named space, recorded in order; an input
puts the environment's answer into the register (R270, R272 to R274, R292). The model's choice (log 21): the answers are the list
`ioIn`, of a byte transfer the low byte of an answer counts, and where the list is empty the answer is any value. -/
def Obligations.SingleTransfers : Prop :=
  ∀ (s : State) (k : RegNo) (a : Word), s.fcw.sys = true →
    (∀ (port : Port), (∀ p, port = .ind p → a = s.reg p) → (∀ w, port = .direct w → a = w) →
      Inputs .byte .normal (.inpb k port) k a s ∧ Inputs .word .normal (.inp k port) k a s ∧
      Outputs .byte .normal (.outb port k) a k s ∧ Outputs .word .normal (.out port k) a k s) ∧
    Inputs .byte .special (.sinb k a) k a s ∧ Inputs .word .special (.sin k a) k a s ∧
    Outputs .byte .special (.soutb a k) a k s ∧ Outputs .word .special (.sout a k) a k s

/-- One iteration of the sixteen block-input and the sixteen block-output instructions in system mode (R271, R275 to R286,
R292). The model's choice (log 21): the answers are the list `ioIn`, of a byte transfer the low byte of an answer counts, and where the
list is empty the answer is any value. The refusal of overlapping registers is D17 read as in log 24; that an iteration is a step is
D14 (log 30). -/
def Obligations.BlockTransfers : Prop :=
  (InputsElement .byte .normal 1 false .inib ∧ InputsElement .byte .normal 1 true .inirb ∧
    InputsElement .byte .normal (-1) false .indb ∧ InputsElement .byte .normal (-1) true .indrb ∧
    InputsElement .word .normal 2 false .ini ∧ InputsElement .word .normal 2 true .inir ∧
    InputsElement .word .normal (-2) false .ind ∧ InputsElement .word .normal (-2) true .indr ∧
    InputsElement .byte .special 1 false .sinib ∧ InputsElement .byte .special 1 true .sinirb ∧
    InputsElement .byte .special (-1) false .sindb ∧ InputsElement .byte .special (-1) true .sindrb ∧
    InputsElement .word .special 2 false .sini ∧ InputsElement .word .special 2 true .sinir ∧
    InputsElement .word .special (-2) false .sind ∧ InputsElement .word .special (-2) true .sindr) ∧
  (OutputsElement .byte .normal 1 false .outib ∧ OutputsElement .byte .normal 1 true .otirb ∧
    OutputsElement .byte .normal (-1) false .outdb ∧ OutputsElement .byte .normal (-1) true .otdrb ∧
    OutputsElement .word .normal 2 false .outi ∧ OutputsElement .word .normal 2 true .otir ∧
    OutputsElement .word .normal (-2) false .outd ∧ OutputsElement .word .normal (-2) true .otdr ∧
    OutputsElement .byte .special 1 false .soutib ∧ OutputsElement .byte .special 1 true .sotirb ∧
    OutputsElement .byte .special (-1) false .soutdb ∧ OutputsElement .byte .special (-1) true .sotdrb ∧
    OutputsElement .word .special 2 false .souti ∧ OutputsElement .word .special 2 true .sotir ∧
    OutputsElement .word .special (-2) false .soutd ∧ OutputsElement .word .special (-2) true .sotdr)

/-! ## CPU control (49_cpu_control.md) -/

/-- COMFLG, RESFLG and SETFLG complement, clear and set the bits of FCW[7:4] their mask selects, LDCTLB writes FCW[7:2], and
nothing else in the FCW or outside it changes; LDCTLB reads the flag byte with bits 1..0 as 0; NOP changes nothing; DI, EI, HALT,
MRES, MSET in system mode (R300 to R303, R305, R309 to R313). -/
def Obligations.FlagsEnablesAndPins : Prop :=
  ∀ (s : State) (m : BitVec 4) (k : RegNo),
    (∃ f : Fcw, f.toWord = s.fcw.toWord ^^^ (0#8 ++ m ++ 0#4) ∧ exec (.comflg m) s = .next { s with fcw := f }) ∧
    (∃ f : Fcw, f.toWord = s.fcw.toWord &&& ~~~(0#8 ++ m ++ 0#4) ∧ exec (.resflg m) s = .next { s with fcw := f }) ∧
    (∃ f : Fcw, f.toWord = s.fcw.toWord ||| (0#8 ++ m ++ 0#4) ∧ exec (.setflg m) s = .next { s with fcw := f }) ∧
    (∃ f : Fcw, f.toWord = s.fcw.control ++ (s.byteReg k).extractLsb' 2 6 ++ s.fcw.rsvLo ∧
      exec (.ldctlbWrite k) s = .next { s with fcw := f }) ∧
    exec (.ldctlbRead k) s = .next (s.setByteReg k (s.fcw.toWord.extractLsb' 2 6 ++ 0#2)) ∧
    exec .nop s = .next s ∧
    (s.fcw.sys = true →
      (∀ v n, exec (.di v n) s = .next
        { s with fcw := { s.fcw with vie := if v then false else s.fcw.vie, nvie := if n then false else s.fcw.nvie } }) ∧
      (∀ v n, exec (.ei v n) s = .next
        { s with fcw := { s.fcw with vie := if v then true else s.fcw.vie, nvie := if n then true else s.fcw.nvie } }) ∧
      exec .halt s = .next { s with halted := true } ∧
      exec .mres s = .next { s with mo := .high } ∧ exec .mset s = .next { s with mo := .low })

/-- LDCTL in system mode, for every control register of 10_state.md R33: a write replaces it; a read gives it, with any value in
the bits of REFRESH that count by themselves (R36), and in the low byte of PSAP where a reserved bit was written as 1 (U4, log 16);
PSAPSEG and
NSPSEG are refused on a Z8002 (R304). A word written to the FCW reads back with its reserved bits 0 (and SEG 0 on a Z8002) where
`FCW_RESERVED` says so, and whole otherwise; bit by bit it is SEG, S/N, EPA, VIE, NVIE in bits 15 to 11 and C, Z, S, P/V, DA, H in
bits 7 to 2 (10_state.md R30, U3, log 17). -/
def Obligations.ControlRegisters : Prop :=
  ∀ (s : State) (k : RegNo), s.fcw.sys = true →
    exec (.ldctlRead k .fcw) s = .next (s.setReg k s.fcw.toWord) ∧
    exec (.ldctlRead k .nspOff) s = .next (s.setReg k s.nspOff) ∧
    (∃ x n, (s.refresh &&& 0x8000) = (x &&& 0x8000) ∧ exec (.ldctlRead k .refresh) s = .next { s.setReg k x with free := n }) ∧
    (∃ x n, (s.psapOff &&& 0xFF00) = (x &&& 0xFF00) ∧ (s.psapOff &&& 0x00FF = 0 → x = s.psapOff) ∧
      exec (.ldctlRead k .psapOff) s = .next { s.setReg k x with free := n }) ∧
    exec (.ldctlWrite .fcw k) s = .next { s with fcw := .ofWord s.par (s.reg k) } ∧
    exec (.ldctlWrite .refresh k) s = .next { s with refresh := s.reg k } ∧
    exec (.ldctlWrite .psapOff k) s = .next { s with psapOff := s.reg k } ∧
    exec (.ldctlWrite .nspOff k) s = .next { s with nspOff := s.reg k } ∧
    (s.isZ8001 = true →
      exec (.ldctlRead k .nspSeg) s = .next (s.setReg k s.nspSeg) ∧
      (∃ x n, (s.psapSeg &&& 0xFF00) = (x &&& 0xFF00) ∧ (s.psapSeg &&& 0x80FF = 0 → x = s.psapSeg) ∧
        exec (.ldctlRead k .psapSeg) s = .next { s.setReg k x with free := n }) ∧
      exec (.ldctlWrite .psapSeg k) s = .next { s with psapSeg := s.reg k } ∧
      exec (.ldctlWrite .nspSeg k) s = .next { s with nspSeg := s.reg k }) ∧
    (s.isZ8001 = false → ∀ c, c = .psapSeg ∨ c = .nspSeg →
      exec (.ldctlRead k c) s = .refused .noSuchControlRegister ∧
      exec (.ldctlWrite c k) s = .refused .noSuchControlRegister) ∧
    (∀ (par : Params) (w : Word),
      (par.fcwReserved = .readsBackWritten → (Fcw.ofWord par w).toWord = w) ∧
      (par.fcwReserved = .readsBackZero →
        (Fcw.ofWord par w).toWord = w &&& if par.variant = .z8001 then 0xF8FC else 0x78FC) ∧
      Fcw.Layout par w (.ofWord par w))

/-- MBIT and MREQ complete in system mode, whatever the environment presents. MI is sampled once by MBIT, into S with Z any
value; and by MREQ, which leaves a busy resource alone when the sample is low, and otherwise makes the request and samples MI again
(R307, R308). A sample the environment does not give may be either level; that the samples are the list `miIn`, and free when it is
empty, is the model's choice (log 22). -/
def Obligations.MultiMicro : Prop :=
  ∀ (s : State) (d : RegNo), s.fcw.sys = true →
    (∃ t, exec .mbit s = .next t) ∧ (∃ t, exec (.mreq d) s = .next t) ∧
    (∀ p rest, s.miIn = p :: rest → ∃ z n, exec .mbit s = .next
      { s with fcw := { s.fcw with z := z, s := decide (p = .high) }, miIn := rest, free := n }) ∧
    (s.miIn = [] → ∃ z p n, exec .mbit s = .next
      { s with fcw := { s.fcw with z := z, s := decide (p = Pin.high) }, free := n }) ∧
    (∀ rest, s.miIn = .low :: rest → exec (.mreq d) s = .next { s.resourceBusy with miIn := rest }) ∧
    (∀ q rest, s.miIn = .high :: q :: rest →
      exec (.mreq d) s = .next { s.resourceRequested d q with miIn := rest }) ∧
    (s.miIn = [.high] → ∃ q n, exec (.mreq d) s = .next { s.resourceRequested d q with miIn := [], free := n }) ∧
    (s.miIn = [] → ∃ n, exec (.mreq d) s = .next { s.resourceBusy with free := n } ∨
      ∃ q, exec (.mreq d) s = .next { s.resourceRequested d q with free := n })
end

