-- ==== Sys2Proof/Laws/State.lean ====
section
/-! SUPPORT. Laws/State.lean: one lemma per field per named update of the state, so that no later proof unfolds a record
update; and what a register write leaves alone. -/

namespace Sys2Proof.Machine

/-! ## `advance` -/

@[simp] theorem State.advance_par (s : State) (n : Nat) : (s.advance n).par = s.par := rfl
@[simp] theorem State.advance_regs (s : State) (n : Nat) : (s.advance n).regs = s.regs := rfl
@[simp] theorem State.advance_nspSeg (s : State) (n : Nat) : (s.advance n).nspSeg = s.nspSeg := rfl
@[simp] theorem State.advance_nspOff (s : State) (n : Nat) : (s.advance n).nspOff = s.nspOff := rfl
@[simp] theorem State.advance_pc (s : State) (n : Nat) : (s.advance n).pc = s.pc.add (BitVec.ofNat 16 (2 * n)) := rfl
@[simp] theorem State.advance_fcw (s : State) (n : Nat) : (s.advance n).fcw = s.fcw := rfl
@[simp] theorem State.advance_psapSeg (s : State) (n : Nat) : (s.advance n).psapSeg = s.psapSeg := rfl
@[simp] theorem State.advance_psapOff (s : State) (n : Nat) : (s.advance n).psapOff = s.psapOff := rfl
@[simp] theorem State.advance_refresh (s : State) (n : Nat) : (s.advance n).refresh = s.refresh := rfl
@[simp] theorem State.advance_mo (s : State) (n : Nat) : (s.advance n).mo = s.mo := rfl
@[simp] theorem State.advance_halted (s : State) (n : Nat) : (s.advance n).halted = s.halted := rfl
@[simp] theorem State.advance_resetReq (s : State) (n : Nat) : (s.advance n).resetReq = s.resetReq := rfl
@[simp] theorem State.advance_nmi (s : State) (n : Nat) : (s.advance n).nmi = s.nmi := rfl
@[simp] theorem State.advance_mem (s : State) (n : Nat) : (s.advance n).mem = s.mem := rfl
@[simp] theorem State.advance_ioLog (s : State) (n : Nat) : (s.advance n).ioLog = s.ioLog := rfl
@[simp] theorem State.advance_events (s : State) (n : Nat) : (s.advance n).events = s.events := rfl
@[simp] theorem State.advance_ioIn (s : State) (n : Nat) : (s.advance n).ioIn = s.ioIn := rfl
@[simp] theorem State.advance_miIn (s : State) (n : Nat) : (s.advance n).miIn = s.miIn := rfl
@[simp] theorem State.advance_free (s : State) (n : Nat) : (s.advance n).free = s.free := rfl

/-! ## `jump` -/

@[simp] theorem State.jump_par (s : State) (a : Addr) : (s.jump a).par = s.par := rfl
@[simp] theorem State.jump_regs (s : State) (a : Addr) : (s.jump a).regs = s.regs := rfl
@[simp] theorem State.jump_nspSeg (s : State) (a : Addr) : (s.jump a).nspSeg = s.nspSeg := rfl
@[simp] theorem State.jump_nspOff (s : State) (a : Addr) : (s.jump a).nspOff = s.nspOff := rfl
@[simp] theorem State.jump_pc (s : State) (a : Addr) : (s.jump a).pc = a := rfl
@[simp] theorem State.jump_fcw (s : State) (a : Addr) : (s.jump a).fcw = s.fcw := rfl
@[simp] theorem State.jump_psapSeg (s : State) (a : Addr) : (s.jump a).psapSeg = s.psapSeg := rfl
@[simp] theorem State.jump_psapOff (s : State) (a : Addr) : (s.jump a).psapOff = s.psapOff := rfl
@[simp] theorem State.jump_refresh (s : State) (a : Addr) : (s.jump a).refresh = s.refresh := rfl
@[simp] theorem State.jump_mo (s : State) (a : Addr) : (s.jump a).mo = s.mo := rfl
@[simp] theorem State.jump_halted (s : State) (a : Addr) : (s.jump a).halted = s.halted := rfl
@[simp] theorem State.jump_resetReq (s : State) (a : Addr) : (s.jump a).resetReq = s.resetReq := rfl
@[simp] theorem State.jump_nmi (s : State) (a : Addr) : (s.jump a).nmi = s.nmi := rfl
@[simp] theorem State.jump_mem (s : State) (a : Addr) : (s.jump a).mem = s.mem := rfl
@[simp] theorem State.jump_ioLog (s : State) (a : Addr) : (s.jump a).ioLog = s.ioLog := rfl
@[simp] theorem State.jump_events (s : State) (a : Addr) : (s.jump a).events = s.events := rfl
@[simp] theorem State.jump_ioIn (s : State) (a : Addr) : (s.jump a).ioIn = s.ioIn := rfl
@[simp] theorem State.jump_miIn (s : State) (a : Addr) : (s.jump a).miIn = s.miIn := rfl
@[simp] theorem State.jump_free (s : State) (a : Addr) : (s.jump a).free = s.free := rfl

/-! ## `systemMode` -/

@[simp] theorem State.systemMode_par (s : State) : (s.systemMode).par = s.par := rfl
@[simp] theorem State.systemMode_regs (s : State) : (s.systemMode).regs = s.regs := rfl
@[simp] theorem State.systemMode_nspSeg (s : State) : (s.systemMode).nspSeg = s.nspSeg := rfl
@[simp] theorem State.systemMode_nspOff (s : State) : (s.systemMode).nspOff = s.nspOff := rfl
@[simp] theorem State.systemMode_pc (s : State) : (s.systemMode).pc = s.pc := rfl
@[simp] theorem State.systemMode_fcw (s : State) : (s.systemMode).fcw = { s.fcw with sys := true, seg := s.fcw.seg || s.isZ8001 } := rfl
@[simp] theorem State.systemMode_psapSeg (s : State) : (s.systemMode).psapSeg = s.psapSeg := rfl
@[simp] theorem State.systemMode_psapOff (s : State) : (s.systemMode).psapOff = s.psapOff := rfl
@[simp] theorem State.systemMode_refresh (s : State) : (s.systemMode).refresh = s.refresh := rfl
@[simp] theorem State.systemMode_mo (s : State) : (s.systemMode).mo = s.mo := rfl
@[simp] theorem State.systemMode_halted (s : State) : (s.systemMode).halted = s.halted := rfl
@[simp] theorem State.systemMode_resetReq (s : State) : (s.systemMode).resetReq = s.resetReq := rfl
@[simp] theorem State.systemMode_nmi (s : State) : (s.systemMode).nmi = s.nmi := rfl
@[simp] theorem State.systemMode_mem (s : State) : (s.systemMode).mem = s.mem := rfl
@[simp] theorem State.systemMode_ioLog (s : State) : (s.systemMode).ioLog = s.ioLog := rfl
@[simp] theorem State.systemMode_events (s : State) : (s.systemMode).events = s.events := rfl
@[simp] theorem State.systemMode_ioIn (s : State) : (s.systemMode).ioIn = s.ioIn := rfl
@[simp] theorem State.systemMode_miIn (s : State) : (s.systemMode).miIn = s.miIn := rfl
@[simp] theorem State.systemMode_free (s : State) : (s.systemMode).free = s.free := rfl

/-! ## `ioWriteDone` -/

@[simp] theorem State.ioWriteDone_par (s : State) (sp : IoSpace) (W : Width) (p v : Word) : (s.ioWriteDone sp W p v).par = s.par := rfl
@[simp] theorem State.ioWriteDone_regs (s : State) (sp : IoSpace) (W : Width) (p v : Word) : (s.ioWriteDone sp W p v).regs = s.regs := rfl
@[simp] theorem State.ioWriteDone_nspSeg (s : State) (sp : IoSpace) (W : Width) (p v : Word) : (s.ioWriteDone sp W p v).nspSeg = s.nspSeg := rfl
@[simp] theorem State.ioWriteDone_nspOff (s : State) (sp : IoSpace) (W : Width) (p v : Word) : (s.ioWriteDone sp W p v).nspOff = s.nspOff := rfl
@[simp] theorem State.ioWriteDone_pc (s : State) (sp : IoSpace) (W : Width) (p v : Word) : (s.ioWriteDone sp W p v).pc = s.pc := rfl
@[simp] theorem State.ioWriteDone_fcw (s : State) (sp : IoSpace) (W : Width) (p v : Word) : (s.ioWriteDone sp W p v).fcw = s.fcw := rfl
@[simp] theorem State.ioWriteDone_psapSeg (s : State) (sp : IoSpace) (W : Width) (p v : Word) : (s.ioWriteDone sp W p v).psapSeg = s.psapSeg := rfl
@[simp] theorem State.ioWriteDone_psapOff (s : State) (sp : IoSpace) (W : Width) (p v : Word) : (s.ioWriteDone sp W p v).psapOff = s.psapOff := rfl
@[simp] theorem State.ioWriteDone_refresh (s : State) (sp : IoSpace) (W : Width) (p v : Word) : (s.ioWriteDone sp W p v).refresh = s.refresh := rfl
@[simp] theorem State.ioWriteDone_mo (s : State) (sp : IoSpace) (W : Width) (p v : Word) : (s.ioWriteDone sp W p v).mo = s.mo := rfl
@[simp] theorem State.ioWriteDone_halted (s : State) (sp : IoSpace) (W : Width) (p v : Word) : (s.ioWriteDone sp W p v).halted = s.halted := rfl
@[simp] theorem State.ioWriteDone_resetReq (s : State) (sp : IoSpace) (W : Width) (p v : Word) : (s.ioWriteDone sp W p v).resetReq = s.resetReq := rfl
@[simp] theorem State.ioWriteDone_nmi (s : State) (sp : IoSpace) (W : Width) (p v : Word) : (s.ioWriteDone sp W p v).nmi = s.nmi := rfl
@[simp] theorem State.ioWriteDone_mem (s : State) (sp : IoSpace) (W : Width) (p v : Word) : (s.ioWriteDone sp W p v).mem = s.mem := rfl
@[simp] theorem State.ioWriteDone_ioLog (s : State) (sp : IoSpace) (W : Width) (p v : Word) : (s.ioWriteDone sp W p v).ioLog = s.ioLog ++ [⟨sp, p, true, W, ioValue W v⟩] := rfl
@[simp] theorem State.ioWriteDone_events (s : State) (sp : IoSpace) (W : Width) (p v : Word) : (s.ioWriteDone sp W p v).events = s.events := rfl
@[simp] theorem State.ioWriteDone_ioIn (s : State) (sp : IoSpace) (W : Width) (p v : Word) : (s.ioWriteDone sp W p v).ioIn = s.ioIn := rfl
@[simp] theorem State.ioWriteDone_miIn (s : State) (sp : IoSpace) (W : Width) (p v : Word) : (s.ioWriteDone sp W p v).miIn = s.miIn := rfl
@[simp] theorem State.ioWriteDone_free (s : State) (sp : IoSpace) (W : Width) (p v : Word) : (s.ioWriteDone sp W p v).free = s.free := rfl

/-! ## `ioReadDone` -/

@[simp] theorem State.ioReadDone_par (s : State) (sp : IoSpace) (W : Width) (p : Word) : (s.ioReadDone sp W p).par = s.par := rfl
@[simp] theorem State.ioReadDone_regs (s : State) (sp : IoSpace) (W : Width) (p : Word) : (s.ioReadDone sp W p).regs = s.regs := rfl
@[simp] theorem State.ioReadDone_nspSeg (s : State) (sp : IoSpace) (W : Width) (p : Word) : (s.ioReadDone sp W p).nspSeg = s.nspSeg := rfl
@[simp] theorem State.ioReadDone_nspOff (s : State) (sp : IoSpace) (W : Width) (p : Word) : (s.ioReadDone sp W p).nspOff = s.nspOff := rfl
@[simp] theorem State.ioReadDone_pc (s : State) (sp : IoSpace) (W : Width) (p : Word) : (s.ioReadDone sp W p).pc = s.pc := rfl
@[simp] theorem State.ioReadDone_fcw (s : State) (sp : IoSpace) (W : Width) (p : Word) : (s.ioReadDone sp W p).fcw = s.fcw := rfl
@[simp] theorem State.ioReadDone_psapSeg (s : State) (sp : IoSpace) (W : Width) (p : Word) : (s.ioReadDone sp W p).psapSeg = s.psapSeg := rfl
@[simp] theorem State.ioReadDone_psapOff (s : State) (sp : IoSpace) (W : Width) (p : Word) : (s.ioReadDone sp W p).psapOff = s.psapOff := rfl
@[simp] theorem State.ioReadDone_refresh (s : State) (sp : IoSpace) (W : Width) (p : Word) : (s.ioReadDone sp W p).refresh = s.refresh := rfl
@[simp] theorem State.ioReadDone_mo (s : State) (sp : IoSpace) (W : Width) (p : Word) : (s.ioReadDone sp W p).mo = s.mo := rfl
@[simp] theorem State.ioReadDone_halted (s : State) (sp : IoSpace) (W : Width) (p : Word) : (s.ioReadDone sp W p).halted = s.halted := rfl
@[simp] theorem State.ioReadDone_resetReq (s : State) (sp : IoSpace) (W : Width) (p : Word) : (s.ioReadDone sp W p).resetReq = s.resetReq := rfl
@[simp] theorem State.ioReadDone_nmi (s : State) (sp : IoSpace) (W : Width) (p : Word) : (s.ioReadDone sp W p).nmi = s.nmi := rfl
@[simp] theorem State.ioReadDone_mem (s : State) (sp : IoSpace) (W : Width) (p : Word) : (s.ioReadDone sp W p).mem = s.mem := rfl
@[simp] theorem State.ioReadDone_ioLog (s : State) (sp : IoSpace) (W : Width) (p : Word) : (s.ioReadDone sp W p).ioLog = s.ioLog ++ [⟨sp, p, false, W, ioValue W s.ioAnswer⟩] := rfl
@[simp] theorem State.ioReadDone_events (s : State) (sp : IoSpace) (W : Width) (p : Word) : (s.ioReadDone sp W p).events = s.events := rfl
@[simp] theorem State.ioReadDone_ioIn (s : State) (sp : IoSpace) (W : Width) (p : Word) : (s.ioReadDone sp W p).ioIn = s.ioIn.tail := rfl
@[simp] theorem State.ioReadDone_miIn (s : State) (sp : IoSpace) (W : Width) (p : Word) : (s.ioReadDone sp W p).miIn = s.miIn := rfl
@[simp] theorem State.ioReadDone_free (s : State) (sp : IoSpace) (W : Width) (p : Word) : (s.ioReadDone sp W p).free = if s.ioIn.isEmpty then s.free + 1 else s.free := rfl

/-! ## `miSampled` -/

@[simp] theorem State.miSampled_par (s : State) : (s.miSampled).par = s.par := rfl
@[simp] theorem State.miSampled_regs (s : State) : (s.miSampled).regs = s.regs := rfl
@[simp] theorem State.miSampled_nspSeg (s : State) : (s.miSampled).nspSeg = s.nspSeg := rfl
@[simp] theorem State.miSampled_nspOff (s : State) : (s.miSampled).nspOff = s.nspOff := rfl
@[simp] theorem State.miSampled_pc (s : State) : (s.miSampled).pc = s.pc := rfl
@[simp] theorem State.miSampled_fcw (s : State) : (s.miSampled).fcw = s.fcw := rfl
@[simp] theorem State.miSampled_psapSeg (s : State) : (s.miSampled).psapSeg = s.psapSeg := rfl
@[simp] theorem State.miSampled_psapOff (s : State) : (s.miSampled).psapOff = s.psapOff := rfl
@[simp] theorem State.miSampled_refresh (s : State) : (s.miSampled).refresh = s.refresh := rfl
@[simp] theorem State.miSampled_mo (s : State) : (s.miSampled).mo = s.mo := rfl
@[simp] theorem State.miSampled_halted (s : State) : (s.miSampled).halted = s.halted := rfl
@[simp] theorem State.miSampled_resetReq (s : State) : (s.miSampled).resetReq = s.resetReq := rfl
@[simp] theorem State.miSampled_nmi (s : State) : (s.miSampled).nmi = s.nmi := rfl
@[simp] theorem State.miSampled_mem (s : State) : (s.miSampled).mem = s.mem := rfl
@[simp] theorem State.miSampled_ioLog (s : State) : (s.miSampled).ioLog = s.ioLog := rfl
@[simp] theorem State.miSampled_events (s : State) : (s.miSampled).events = s.events := rfl
@[simp] theorem State.miSampled_ioIn (s : State) : (s.miSampled).ioIn = s.ioIn := rfl
@[simp] theorem State.miSampled_miIn (s : State) : (s.miSampled).miIn = s.miIn.tail := rfl
@[simp] theorem State.miSampled_free (s : State) : (s.miSampled).free = if s.miIn.isEmpty then s.free + 1 else s.free := rfl

/-! ## `freeZ` -/

@[simp] theorem State.freeZ_par (s : State) : (s.freeZ).par = s.par := rfl
@[simp] theorem State.freeZ_regs (s : State) : (s.freeZ).regs = s.regs := rfl
@[simp] theorem State.freeZ_nspSeg (s : State) : (s.freeZ).nspSeg = s.nspSeg := rfl
@[simp] theorem State.freeZ_nspOff (s : State) : (s.freeZ).nspOff = s.nspOff := rfl
@[simp] theorem State.freeZ_pc (s : State) : (s.freeZ).pc = s.pc := rfl
@[simp] theorem State.freeZ_fcw (s : State) : (s.freeZ).fcw = { s.fcw with z := Config.freeBit s.free } := rfl
@[simp] theorem State.freeZ_psapSeg (s : State) : (s.freeZ).psapSeg = s.psapSeg := rfl
@[simp] theorem State.freeZ_psapOff (s : State) : (s.freeZ).psapOff = s.psapOff := rfl
@[simp] theorem State.freeZ_refresh (s : State) : (s.freeZ).refresh = s.refresh := rfl
@[simp] theorem State.freeZ_mo (s : State) : (s.freeZ).mo = s.mo := rfl
@[simp] theorem State.freeZ_halted (s : State) : (s.freeZ).halted = s.halted := rfl
@[simp] theorem State.freeZ_resetReq (s : State) : (s.freeZ).resetReq = s.resetReq := rfl
@[simp] theorem State.freeZ_nmi (s : State) : (s.freeZ).nmi = s.nmi := rfl
@[simp] theorem State.freeZ_mem (s : State) : (s.freeZ).mem = s.mem := rfl
@[simp] theorem State.freeZ_ioLog (s : State) : (s.freeZ).ioLog = s.ioLog := rfl
@[simp] theorem State.freeZ_events (s : State) : (s.freeZ).events = s.events := rfl
@[simp] theorem State.freeZ_ioIn (s : State) : (s.freeZ).ioIn = s.ioIn := rfl
@[simp] theorem State.freeZ_miIn (s : State) : (s.freeZ).miIn = s.miIn := rfl
@[simp] theorem State.freeZ_free (s : State) : (s.freeZ).free = s.free + 1 := rfl

/-! ## `freeS` -/

@[simp] theorem State.freeS_par (s : State) : (s.freeS).par = s.par := rfl
@[simp] theorem State.freeS_regs (s : State) : (s.freeS).regs = s.regs := rfl
@[simp] theorem State.freeS_nspSeg (s : State) : (s.freeS).nspSeg = s.nspSeg := rfl
@[simp] theorem State.freeS_nspOff (s : State) : (s.freeS).nspOff = s.nspOff := rfl
@[simp] theorem State.freeS_pc (s : State) : (s.freeS).pc = s.pc := rfl
@[simp] theorem State.freeS_fcw (s : State) : (s.freeS).fcw = { s.fcw with s := Config.freeBit s.free } := rfl
@[simp] theorem State.freeS_psapSeg (s : State) : (s.freeS).psapSeg = s.psapSeg := rfl
@[simp] theorem State.freeS_psapOff (s : State) : (s.freeS).psapOff = s.psapOff := rfl
@[simp] theorem State.freeS_refresh (s : State) : (s.freeS).refresh = s.refresh := rfl
@[simp] theorem State.freeS_mo (s : State) : (s.freeS).mo = s.mo := rfl
@[simp] theorem State.freeS_halted (s : State) : (s.freeS).halted = s.halted := rfl
@[simp] theorem State.freeS_resetReq (s : State) : (s.freeS).resetReq = s.resetReq := rfl
@[simp] theorem State.freeS_nmi (s : State) : (s.freeS).nmi = s.nmi := rfl
@[simp] theorem State.freeS_mem (s : State) : (s.freeS).mem = s.mem := rfl
@[simp] theorem State.freeS_ioLog (s : State) : (s.freeS).ioLog = s.ioLog := rfl
@[simp] theorem State.freeS_events (s : State) : (s.freeS).events = s.events := rfl
@[simp] theorem State.freeS_ioIn (s : State) : (s.freeS).ioIn = s.ioIn := rfl
@[simp] theorem State.freeS_miIn (s : State) : (s.freeS).miIn = s.miIn := rfl
@[simp] theorem State.freeS_free (s : State) : (s.freeS).free = s.free + 1 := rfl

/-! ## `freeC` -/

@[simp] theorem State.freeC_par (s : State) : (s.freeC).par = s.par := rfl
@[simp] theorem State.freeC_regs (s : State) : (s.freeC).regs = s.regs := rfl
@[simp] theorem State.freeC_nspSeg (s : State) : (s.freeC).nspSeg = s.nspSeg := rfl
@[simp] theorem State.freeC_nspOff (s : State) : (s.freeC).nspOff = s.nspOff := rfl
@[simp] theorem State.freeC_pc (s : State) : (s.freeC).pc = s.pc := rfl
@[simp] theorem State.freeC_fcw (s : State) : (s.freeC).fcw = { s.fcw with c := Config.freeBit s.free } := rfl
@[simp] theorem State.freeC_psapSeg (s : State) : (s.freeC).psapSeg = s.psapSeg := rfl
@[simp] theorem State.freeC_psapOff (s : State) : (s.freeC).psapOff = s.psapOff := rfl
@[simp] theorem State.freeC_refresh (s : State) : (s.freeC).refresh = s.refresh := rfl
@[simp] theorem State.freeC_mo (s : State) : (s.freeC).mo = s.mo := rfl
@[simp] theorem State.freeC_halted (s : State) : (s.freeC).halted = s.halted := rfl
@[simp] theorem State.freeC_resetReq (s : State) : (s.freeC).resetReq = s.resetReq := rfl
@[simp] theorem State.freeC_nmi (s : State) : (s.freeC).nmi = s.nmi := rfl
@[simp] theorem State.freeC_mem (s : State) : (s.freeC).mem = s.mem := rfl
@[simp] theorem State.freeC_ioLog (s : State) : (s.freeC).ioLog = s.ioLog := rfl
@[simp] theorem State.freeC_events (s : State) : (s.freeC).events = s.events := rfl
@[simp] theorem State.freeC_ioIn (s : State) : (s.freeC).ioIn = s.ioIn := rfl
@[simp] theorem State.freeC_miIn (s : State) : (s.freeC).miIn = s.miIn := rfl
@[simp] theorem State.freeC_free (s : State) : (s.freeC).free = s.free + 1 := rfl

/-! ## Register writes -/

/-- A word register write changes the register file or a normal-mode copy, and nothing else. -/
theorem State.setReg_eq (s : State) (k : RegNo) (v : Word) :
    s.setReg k v = { s with regs := (s.setReg k v).regs, nspSeg := (s.setReg k v).nspSeg
                            nspOff := (s.setReg k v).nspOff } := by
  unfold State.setReg
  split
  · rfl
  · split <;> rfl

@[simp] theorem State.setReg_par (s : State) (k : RegNo) (v : Word) : (s.setReg k v).par = s.par := by
  rw [State.setReg_eq]
@[simp] theorem State.setReg_pc (s : State) (k : RegNo) (v : Word) : (s.setReg k v).pc = s.pc := by
  rw [State.setReg_eq]
@[simp] theorem State.setReg_fcw (s : State) (k : RegNo) (v : Word) : (s.setReg k v).fcw = s.fcw := by
  rw [State.setReg_eq]
@[simp] theorem State.setReg_psapSeg (s : State) (k : RegNo) (v : Word) : (s.setReg k v).psapSeg = s.psapSeg := by
  rw [State.setReg_eq]
@[simp] theorem State.setReg_psapOff (s : State) (k : RegNo) (v : Word) : (s.setReg k v).psapOff = s.psapOff := by
  rw [State.setReg_eq]
@[simp] theorem State.setReg_refresh (s : State) (k : RegNo) (v : Word) : (s.setReg k v).refresh = s.refresh := by
  rw [State.setReg_eq]
@[simp] theorem State.setReg_mo (s : State) (k : RegNo) (v : Word) : (s.setReg k v).mo = s.mo := by
  rw [State.setReg_eq]
@[simp] theorem State.setReg_halted (s : State) (k : RegNo) (v : Word) : (s.setReg k v).halted = s.halted := by
  rw [State.setReg_eq]
@[simp] theorem State.setReg_resetReq (s : State) (k : RegNo) (v : Word) : (s.setReg k v).resetReq = s.resetReq := by
  rw [State.setReg_eq]
@[simp] theorem State.setReg_nmi (s : State) (k : RegNo) (v : Word) : (s.setReg k v).nmi = s.nmi := by
  rw [State.setReg_eq]
@[simp] theorem State.setReg_mem (s : State) (k : RegNo) (v : Word) : (s.setReg k v).mem = s.mem := by
  rw [State.setReg_eq]
@[simp] theorem State.setReg_ioLog (s : State) (k : RegNo) (v : Word) : (s.setReg k v).ioLog = s.ioLog := by
  rw [State.setReg_eq]
@[simp] theorem State.setReg_events (s : State) (k : RegNo) (v : Word) : (s.setReg k v).events = s.events := by
  rw [State.setReg_eq]
@[simp] theorem State.setReg_ioIn (s : State) (k : RegNo) (v : Word) : (s.setReg k v).ioIn = s.ioIn := by
  rw [State.setReg_eq]
@[simp] theorem State.setReg_miIn (s : State) (k : RegNo) (v : Word) : (s.setReg k v).miIn = s.miIn := by
  rw [State.setReg_eq]
@[simp] theorem State.setReg_free (s : State) (k : RegNo) (v : Word) : (s.setReg k v).free = s.free := by
  rw [State.setReg_eq]

@[simp] theorem State.setByteReg_par (s : State) (k : RegNo) (v : Byte) : (s.setByteReg k v).par = s.par := by
  simp [State.setByteReg]
@[simp] theorem State.setByteReg_pc (s : State) (k : RegNo) (v : Byte) : (s.setByteReg k v).pc = s.pc := by
  simp [State.setByteReg]
@[simp] theorem State.setByteReg_fcw (s : State) (k : RegNo) (v : Byte) : (s.setByteReg k v).fcw = s.fcw := by
  simp [State.setByteReg]
@[simp] theorem State.setByteReg_psapSeg (s : State) (k : RegNo) (v : Byte) : (s.setByteReg k v).psapSeg = s.psapSeg := by
  simp [State.setByteReg]
@[simp] theorem State.setByteReg_psapOff (s : State) (k : RegNo) (v : Byte) : (s.setByteReg k v).psapOff = s.psapOff := by
  simp [State.setByteReg]
@[simp] theorem State.setByteReg_refresh (s : State) (k : RegNo) (v : Byte) : (s.setByteReg k v).refresh = s.refresh := by
  simp [State.setByteReg]
@[simp] theorem State.setByteReg_mo (s : State) (k : RegNo) (v : Byte) : (s.setByteReg k v).mo = s.mo := by
  simp [State.setByteReg]
@[simp] theorem State.setByteReg_halted (s : State) (k : RegNo) (v : Byte) : (s.setByteReg k v).halted = s.halted := by
  simp [State.setByteReg]
@[simp] theorem State.setByteReg_resetReq (s : State) (k : RegNo) (v : Byte) : (s.setByteReg k v).resetReq = s.resetReq := by
  simp [State.setByteReg]
@[simp] theorem State.setByteReg_nmi (s : State) (k : RegNo) (v : Byte) : (s.setByteReg k v).nmi = s.nmi := by
  simp [State.setByteReg]
@[simp] theorem State.setByteReg_mem (s : State) (k : RegNo) (v : Byte) : (s.setByteReg k v).mem = s.mem := by
  simp [State.setByteReg]
@[simp] theorem State.setByteReg_ioLog (s : State) (k : RegNo) (v : Byte) : (s.setByteReg k v).ioLog = s.ioLog := by
  simp [State.setByteReg]
@[simp] theorem State.setByteReg_events (s : State) (k : RegNo) (v : Byte) : (s.setByteReg k v).events = s.events := by
  simp [State.setByteReg]
@[simp] theorem State.setByteReg_ioIn (s : State) (k : RegNo) (v : Byte) : (s.setByteReg k v).ioIn = s.ioIn := by
  simp [State.setByteReg]
@[simp] theorem State.setByteReg_miIn (s : State) (k : RegNo) (v : Byte) : (s.setByteReg k v).miIn = s.miIn := by
  simp [State.setByteReg]
@[simp] theorem State.setByteReg_free (s : State) (k : RegNo) (v : Byte) : (s.setByteReg k v).free = s.free := by
  simp [State.setByteReg]

@[simp] theorem State.setLongReg_par (s : State) (k : RegNo) (v : Long) : (s.setLongReg k v).par = s.par := by
  simp [State.setLongReg]
@[simp] theorem State.setLongReg_pc (s : State) (k : RegNo) (v : Long) : (s.setLongReg k v).pc = s.pc := by
  simp [State.setLongReg]
@[simp] theorem State.setLongReg_fcw (s : State) (k : RegNo) (v : Long) : (s.setLongReg k v).fcw = s.fcw := by
  simp [State.setLongReg]
@[simp] theorem State.setLongReg_psapSeg (s : State) (k : RegNo) (v : Long) : (s.setLongReg k v).psapSeg = s.psapSeg := by
  simp [State.setLongReg]
@[simp] theorem State.setLongReg_psapOff (s : State) (k : RegNo) (v : Long) : (s.setLongReg k v).psapOff = s.psapOff := by
  simp [State.setLongReg]
@[simp] theorem State.setLongReg_refresh (s : State) (k : RegNo) (v : Long) : (s.setLongReg k v).refresh = s.refresh := by
  simp [State.setLongReg]
@[simp] theorem State.setLongReg_mo (s : State) (k : RegNo) (v : Long) : (s.setLongReg k v).mo = s.mo := by
  simp [State.setLongReg]
@[simp] theorem State.setLongReg_halted (s : State) (k : RegNo) (v : Long) : (s.setLongReg k v).halted = s.halted := by
  simp [State.setLongReg]
@[simp] theorem State.setLongReg_resetReq (s : State) (k : RegNo) (v : Long) : (s.setLongReg k v).resetReq = s.resetReq := by
  simp [State.setLongReg]
@[simp] theorem State.setLongReg_nmi (s : State) (k : RegNo) (v : Long) : (s.setLongReg k v).nmi = s.nmi := by
  simp [State.setLongReg]
@[simp] theorem State.setLongReg_mem (s : State) (k : RegNo) (v : Long) : (s.setLongReg k v).mem = s.mem := by
  simp [State.setLongReg]
@[simp] theorem State.setLongReg_ioLog (s : State) (k : RegNo) (v : Long) : (s.setLongReg k v).ioLog = s.ioLog := by
  simp [State.setLongReg]
@[simp] theorem State.setLongReg_events (s : State) (k : RegNo) (v : Long) : (s.setLongReg k v).events = s.events := by
  simp [State.setLongReg]
@[simp] theorem State.setLongReg_ioIn (s : State) (k : RegNo) (v : Long) : (s.setLongReg k v).ioIn = s.ioIn := by
  simp [State.setLongReg]
@[simp] theorem State.setLongReg_miIn (s : State) (k : RegNo) (v : Long) : (s.setLongReg k v).miIn = s.miIn := by
  simp [State.setLongReg]
@[simp] theorem State.setLongReg_free (s : State) (k : RegNo) (v : Long) : (s.setLongReg k v).free = s.free := by
  simp [State.setLongReg]

@[simp] theorem State.setQuadReg_par (s : State) (k : RegNo) (v : Quad) : (s.setQuadReg k v).par = s.par := by
  simp [State.setQuadReg]
@[simp] theorem State.setQuadReg_pc (s : State) (k : RegNo) (v : Quad) : (s.setQuadReg k v).pc = s.pc := by
  simp [State.setQuadReg]
@[simp] theorem State.setQuadReg_fcw (s : State) (k : RegNo) (v : Quad) : (s.setQuadReg k v).fcw = s.fcw := by
  simp [State.setQuadReg]
@[simp] theorem State.setQuadReg_psapSeg (s : State) (k : RegNo) (v : Quad) : (s.setQuadReg k v).psapSeg = s.psapSeg := by
  simp [State.setQuadReg]
@[simp] theorem State.setQuadReg_psapOff (s : State) (k : RegNo) (v : Quad) : (s.setQuadReg k v).psapOff = s.psapOff := by
  simp [State.setQuadReg]
@[simp] theorem State.setQuadReg_refresh (s : State) (k : RegNo) (v : Quad) : (s.setQuadReg k v).refresh = s.refresh := by
  simp [State.setQuadReg]
@[simp] theorem State.setQuadReg_mo (s : State) (k : RegNo) (v : Quad) : (s.setQuadReg k v).mo = s.mo := by
  simp [State.setQuadReg]
@[simp] theorem State.setQuadReg_halted (s : State) (k : RegNo) (v : Quad) : (s.setQuadReg k v).halted = s.halted := by
  simp [State.setQuadReg]
@[simp] theorem State.setQuadReg_resetReq (s : State) (k : RegNo) (v : Quad) : (s.setQuadReg k v).resetReq = s.resetReq := by
  simp [State.setQuadReg]
@[simp] theorem State.setQuadReg_nmi (s : State) (k : RegNo) (v : Quad) : (s.setQuadReg k v).nmi = s.nmi := by
  simp [State.setQuadReg]
@[simp] theorem State.setQuadReg_mem (s : State) (k : RegNo) (v : Quad) : (s.setQuadReg k v).mem = s.mem := by
  simp [State.setQuadReg]
@[simp] theorem State.setQuadReg_ioLog (s : State) (k : RegNo) (v : Quad) : (s.setQuadReg k v).ioLog = s.ioLog := by
  simp [State.setQuadReg]
@[simp] theorem State.setQuadReg_events (s : State) (k : RegNo) (v : Quad) : (s.setQuadReg k v).events = s.events := by
  simp [State.setQuadReg]
@[simp] theorem State.setQuadReg_ioIn (s : State) (k : RegNo) (v : Quad) : (s.setQuadReg k v).ioIn = s.ioIn := by
  simp [State.setQuadReg]
@[simp] theorem State.setQuadReg_miIn (s : State) (k : RegNo) (v : Quad) : (s.setQuadReg k v).miIn = s.miIn := by
  simp [State.setQuadReg]
@[simp] theorem State.setQuadReg_free (s : State) (k : RegNo) (v : Quad) : (s.setQuadReg k v).free = s.free := by
  simp [State.setQuadReg]

@[simp] theorem State.setRegW_par (s : State) (W : Width) (k : RegNo) (v : BitVec W.bits) :
    (s.setRegW W k v).par = s.par := by
  cases W <;> simp [State.setRegW]
@[simp] theorem State.setRegW_pc (s : State) (W : Width) (k : RegNo) (v : BitVec W.bits) :
    (s.setRegW W k v).pc = s.pc := by
  cases W <;> simp [State.setRegW]
@[simp] theorem State.setRegW_fcw (s : State) (W : Width) (k : RegNo) (v : BitVec W.bits) :
    (s.setRegW W k v).fcw = s.fcw := by
  cases W <;> simp [State.setRegW]
@[simp] theorem State.setRegW_psapSeg (s : State) (W : Width) (k : RegNo) (v : BitVec W.bits) :
    (s.setRegW W k v).psapSeg = s.psapSeg := by
  cases W <;> simp [State.setRegW]
@[simp] theorem State.setRegW_psapOff (s : State) (W : Width) (k : RegNo) (v : BitVec W.bits) :
    (s.setRegW W k v).psapOff = s.psapOff := by
  cases W <;> simp [State.setRegW]
@[simp] theorem State.setRegW_refresh (s : State) (W : Width) (k : RegNo) (v : BitVec W.bits) :
    (s.setRegW W k v).refresh = s.refresh := by
  cases W <;> simp [State.setRegW]
@[simp] theorem State.setRegW_mo (s : State) (W : Width) (k : RegNo) (v : BitVec W.bits) :
    (s.setRegW W k v).mo = s.mo := by
  cases W <;> simp [State.setRegW]
@[simp] theorem State.setRegW_halted (s : State) (W : Width) (k : RegNo) (v : BitVec W.bits) :
    (s.setRegW W k v).halted = s.halted := by
  cases W <;> simp [State.setRegW]
@[simp] theorem State.setRegW_resetReq (s : State) (W : Width) (k : RegNo) (v : BitVec W.bits) :
    (s.setRegW W k v).resetReq = s.resetReq := by
  cases W <;> simp [State.setRegW]
@[simp] theorem State.setRegW_nmi (s : State) (W : Width) (k : RegNo) (v : BitVec W.bits) :
    (s.setRegW W k v).nmi = s.nmi := by
  cases W <;> simp [State.setRegW]
@[simp] theorem State.setRegW_mem (s : State) (W : Width) (k : RegNo) (v : BitVec W.bits) :
    (s.setRegW W k v).mem = s.mem := by
  cases W <;> simp [State.setRegW]
@[simp] theorem State.setRegW_ioLog (s : State) (W : Width) (k : RegNo) (v : BitVec W.bits) :
    (s.setRegW W k v).ioLog = s.ioLog := by
  cases W <;> simp [State.setRegW]
@[simp] theorem State.setRegW_events (s : State) (W : Width) (k : RegNo) (v : BitVec W.bits) :
    (s.setRegW W k v).events = s.events := by
  cases W <;> simp [State.setRegW]
@[simp] theorem State.setRegW_ioIn (s : State) (W : Width) (k : RegNo) (v : BitVec W.bits) :
    (s.setRegW W k v).ioIn = s.ioIn := by
  cases W <;> simp [State.setRegW]
@[simp] theorem State.setRegW_miIn (s : State) (W : Width) (k : RegNo) (v : BitVec W.bits) :
    (s.setRegW W k v).miIn = s.miIn := by
  cases W <;> simp [State.setRegW]
@[simp] theorem State.setRegW_free (s : State) (W : Width) (k : RegNo) (v : BitVec W.bits) :
    (s.setRegW W k v).free = s.free := by
  cases W <;> simp [State.setRegW]
@[simp] theorem State.stepPointer_par (s : State) (p : RegNo) (k : Word) : (s.stepPointer p k).par = s.par := by
  simp [State.stepPointer]
@[simp] theorem State.stepPointer_pc (s : State) (p : RegNo) (k : Word) : (s.stepPointer p k).pc = s.pc := by
  simp [State.stepPointer]
@[simp] theorem State.stepPointer_fcw (s : State) (p : RegNo) (k : Word) : (s.stepPointer p k).fcw = s.fcw := by
  simp [State.stepPointer]
@[simp] theorem State.stepPointer_psapSeg (s : State) (p : RegNo) (k : Word) : (s.stepPointer p k).psapSeg = s.psapSeg := by
  simp [State.stepPointer]
@[simp] theorem State.stepPointer_psapOff (s : State) (p : RegNo) (k : Word) : (s.stepPointer p k).psapOff = s.psapOff := by
  simp [State.stepPointer]
@[simp] theorem State.stepPointer_refresh (s : State) (p : RegNo) (k : Word) : (s.stepPointer p k).refresh = s.refresh := by
  simp [State.stepPointer]
@[simp] theorem State.stepPointer_mo (s : State) (p : RegNo) (k : Word) : (s.stepPointer p k).mo = s.mo := by
  simp [State.stepPointer]
@[simp] theorem State.stepPointer_halted (s : State) (p : RegNo) (k : Word) : (s.stepPointer p k).halted = s.halted := by
  simp [State.stepPointer]
@[simp] theorem State.stepPointer_resetReq (s : State) (p : RegNo) (k : Word) : (s.stepPointer p k).resetReq = s.resetReq := by
  simp [State.stepPointer]
@[simp] theorem State.stepPointer_nmi (s : State) (p : RegNo) (k : Word) : (s.stepPointer p k).nmi = s.nmi := by
  simp [State.stepPointer]
@[simp] theorem State.stepPointer_mem (s : State) (p : RegNo) (k : Word) : (s.stepPointer p k).mem = s.mem := by
  simp [State.stepPointer]
@[simp] theorem State.stepPointer_ioLog (s : State) (p : RegNo) (k : Word) : (s.stepPointer p k).ioLog = s.ioLog := by
  simp [State.stepPointer]
@[simp] theorem State.stepPointer_events (s : State) (p : RegNo) (k : Word) : (s.stepPointer p k).events = s.events := by
  simp [State.stepPointer]
@[simp] theorem State.stepPointer_ioIn (s : State) (p : RegNo) (k : Word) : (s.stepPointer p k).ioIn = s.ioIn := by
  simp [State.stepPointer]
@[simp] theorem State.stepPointer_miIn (s : State) (p : RegNo) (k : Word) : (s.stepPointer p k).miIn = s.miIn := by
  simp [State.stepPointer]
@[simp] theorem State.stepPointer_free (s : State) (p : RegNo) (k : Word) : (s.stepPointer p k).free = s.free := by
  simp [State.stepPointer]

end Sys2Proof.Machine
end

