-- ==== Sys2Proof/Laws/Memory.lean ====
section
/-! SUPPORT. Laws/Memory.lean: the laws of the memory list (read after write, canonical form, range), of addresses, and of
byte, word and long accesses. -/

namespace Sys2Proof.Machine

/-! ## The list of cells -/

theorem Memory.get_set (m : Memory) (k j : Nat) (v : Byte) :
    (m.set k v).get j = if k = j then some v else m.get j := by
  induction m with
  | nil => simp [Memory.set, Memory.get]
  | cons c m ih =>
    obtain ⟨x, b⟩ := c
    by_cases h1 : k < x
    · simp only [Memory.set, h1, if_true, Memory.get]
    · by_cases h2 : k = x
      · subst h2
        by_cases h3 : k = j <;> simp [Memory.set, Memory.get, h3]
      · by_cases h3 : x = j
        · subst h3
          simp [Memory.set, Memory.get, h1, h2]
        · simp [Memory.set, Memory.get, h1, h2, h3, ih]

theorem Memory.mem_set {m : Memory} {k : Nat} {v : Byte} {c : Host.Cell} (h : c ∈ m.set k v) :
    c = (k, v) ∨ c ∈ m := by
  induction m with
  | nil => simpa [Memory.set] using h
  | cons d m ih =>
    obtain ⟨x, b⟩ := d
    unfold Memory.set at h
    split at h
    · simpa using h
    · split at h
      · rcases List.mem_cons.1 h with rfl | h
        · exact .inl rfl
        · exact .inr (List.mem_cons_of_mem _ h)
      · rcases List.mem_cons.1 h with rfl | h
        · exact .inr List.mem_cons_self
        · rcases ih h with rfl | h
          · exact .inl rfl
          · exact .inr (List.mem_cons_of_mem _ h)

/-- Writing a byte keeps the canonical form. -/
theorem Memory.set_wf {m : Memory} (h : Memory.wf m) (k : Nat) (v : Byte) : Memory.wf (m.set k v) := by
  induction m with
  | nil => simp [Memory.set, Memory.wf]
  | cons c m ih =>
    obtain ⟨x, b⟩ := c
    have hx : ∀ c ∈ m, x < c.1 := (List.pairwise_cons.1 h).1
    have hm := (List.pairwise_cons.1 h).2
    unfold Memory.set
    split
    · rename_i h1
      refine List.pairwise_cons.2 ⟨?_, h⟩
      intro c hc
      rcases List.mem_cons.1 hc with rfl | hc
      · exact h1
      · exact Nat.lt_trans h1 (hx c hc)
    · split
      · rename_i h1 h2
        subst h2
        exact List.pairwise_cons.2 ⟨hx, hm⟩
      · refine List.pairwise_cons.2 ⟨?_, ih hm⟩
        intro c hc
        rcases Memory.mem_set hc with rfl | hc
        · simp only []
          omega
        · exact hx c hc

/-- Memory in canonical form is determined by what it reads as. -/
theorem Memory.get_eq_none_of_lt {m : Memory} {k : Nat} (h : ∀ c ∈ m, k < c.1) : m.get k = none := by
  induction m with
  | nil => rfl
  | cons c m ih =>
    obtain ⟨x, b⟩ := c
    have := h (x, b) List.mem_cons_self
    have h2 : ¬ x = k := by simp only at this; omega
    simp only [Memory.get, h2, if_false]
    exact ih fun c hc => h c (List.mem_cons_of_mem _ hc)

/-- Equal memories are equal data. -/
theorem Memory.ext {m n : Memory} (hm : Memory.wf m) (hn : Memory.wf n) (h : ∀ k, m.get k = n.get k) : m = n := by
  induction m generalizing n with
  | nil =>
    cases n with
    | nil => rfl
    | cons d n => have := h d.1; simp [Memory.get] at this
  | cons c m ih =>
    obtain ⟨x, b⟩ := c
    have hx : ∀ c ∈ m, x < c.1 := (List.pairwise_cons.1 hm).1
    cases n with
    | nil => have := h x; simp [Memory.get] at this
    | cons d n =>
      obtain ⟨y, e⟩ := d
      have hy : ∀ c ∈ n, y < c.1 := (List.pairwise_cons.1 hn).1
      have hxy : x = y := by
        rcases Nat.lt_trichotomy x y with h1 | h1 | h1
        · have h2 := h x
          rw [Memory.get_eq_none_of_lt (m := (y, e) :: n)] at h2
          · simp [Memory.get] at h2
          · intro c hc
            rcases List.mem_cons.1 hc with rfl | hc
            · exact h1
            · exact Nat.lt_trans h1 (hy c hc)
        · exact h1
        · have h2 := h y
          rw [Memory.get_eq_none_of_lt (m := (x, b) :: m)] at h2
          · simp [Memory.get] at h2
          · intro c hc
            rcases List.mem_cons.1 hc with rfl | hc
            · exact h1
            · exact Nat.lt_trans h1 (hx c hc)
      subst hxy
      have hb : b = e := by simpa [Memory.get] using h x
      subst hb
      have : m = n := by
        refine ih (List.pairwise_cons.1 hm).2 (List.pairwise_cons.1 hn).2 fun k => ?_
        by_cases hk : x = k
        · subst hk
          rw [Memory.get_eq_none_of_lt hx, Memory.get_eq_none_of_lt hy]
        · simpa [Memory.get, hk] using h k
      rw [this]

/-! ## Addresses -/

theorem Addr.ext {a b : Addr} (h1 : a.seg = b.seg) (h2 : a.off = b.off) : a = b := by
  cases a; cases b; simp_all

/-- Two addresses with one key are one address. -/
theorem Addr.key_inj {a b : Addr} (h : a.key = b.key) : a = b := by
  unfold Addr.key at h
  have h1 := a.off.isLt
  have h2 := b.off.isLt
  apply Addr.ext <;> apply BitVec.eq_of_toNat_eq <;> omega

theorem Addr.key_lt (a : Addr) : a.key < 8388608 := by
  have h1 := a.off.isLt
  have h2 := a.seg.isLt
  unfold Addr.key
  omega

@[simp] theorem Addr.add_seg (a : Addr) (k : Word) : (a.add k).seg = a.seg := rfl
@[simp] theorem Addr.add_off (a : Addr) (k : Word) : (a.add k).off = a.off + k := rfl

@[simp] theorem Addr.add_add (a : Addr) (k l : Word) : (a.add k).add l = a.add (k + l) := by
  simp [Addr.add, BitVec.add_assoc]

@[simp] theorem Addr.add_zero (a : Addr) : a.add 0#16 = a := by simp [Addr.add]

@[simp] theorem Addr.add_inj (a : Addr) (k l : Word) : a.add k = a.add l ↔ k = l := by
  constructor
  · intro h
    have : a.off + k = a.off + l := congrArg Addr.off h
    simpa using this
  · rintro rfl; rfl

theorem Addr.add_ne_self {a : Addr} {k : Word} (h : k ≠ 0) : a.add k ≠ a := by
  intro e
  have : a.add k = a.add 0#16 := by rw [e, Addr.add_zero]
  exact h ((Addr.add_inj a k 0).1 this)

@[simp] theorem Addr.ofWords_segWord (a : Addr) : Addr.ofWords a.segWord a.off = a := by
  apply Addr.ext
  · apply BitVec.eq_of_getLsbD_eq
    intro i hi
    have h : ¬ 8 + i < 8 := by omega
    have h2 : 8 + i - 8 = i := by omega
    simp only [Addr.ofWords, BitVec.getLsbD_extractLsb', hi, decide_true, Bool.true_and]
    show ((0#1 ++ a.seg) ++ 0#8).getLsbD (8 + i) = _
    rw [BitVec.getLsbD_append, if_neg h, h2, BitVec.getLsbD_append, if_pos hi]
  · rfl

/-! ## Results -/

@[simp] theorem Res.andThen_next {α β : Type} (a : α) (f : α → Res β) : Res.andThen (.next a) f = f a := rfl
@[simp] theorem Res.andThen_fault {α β : Type} (r : Fault) (f : α → Res β) :
    Res.andThen (Host.Outcome.fault r) f = .fault r := rfl
@[simp] theorem Res.andThen_refused {α β : Type} (r : Refusal) (f : α → Res β) :
    Res.andThen (Host.Outcome.refused r) f = .refused r := rfl

/-- A sequence answers a next state exactly when both parts do. -/
theorem Res.andThen_eq_next {α β : Type} {x : Res α} {f : α → Res β} {b : β} :
    x.andThen f = .next b ↔ ∃ a, x = .next a ∧ f a = .next b := by
  cases x <;> simp [Res.andThen]

/-! ## Byte accesses -/

/-- Reading a byte depends on the parameters and the memory alone. -/
theorem State.readByte_congr {s t : State} (hp : t.par = s.par) (hm : t.mem = s.mem) (a : Addr) :
    t.readByte a = s.readByte a := by
  simp [State.readByte, State.admits, hp, hm]

theorem State.readByte_eq_next {s : State} {a : Addr} {v : Byte} :
    s.readByte a = .next v ↔ s.admits a = true ∧ s.mem.get a.key = some v := by
  unfold State.readByte
  split
  · rename_i h
    cases hg : s.mem.get a.key <;> simp [h]
  · rename_i h
    simp [h]

/-- What a byte write can do. -/
theorem State.writeByte_eq_next {s t : State} {a : Addr} {v : Byte} :
    s.writeByte a v = .next t ↔ s.admits a = true ∧ t = { s with mem := s.mem.set a.key v } := by
  unfold State.writeByte
  split
  · rename_i h
    simp [h, eq_comm]
  · rename_i h
    simp [h]

/-- A byte read after a byte write. -/
theorem State.readByte_writeByte {s t : State} {a : Addr} {v : Byte} (h : s.writeByte a v = .next t) (b : Addr) :
    t.readByte b = if a = b then .next v else s.readByte b := by
  obtain ⟨ha, rfl⟩ := State.writeByte_eq_next.1 h
  by_cases hb : a = b
  · subst hb
    simp only [if_true]
    exact State.readByte_eq_next.2 ⟨ha, by simp [Memory.get_set]⟩
  · have hk : ¬ a.key = b.key := fun e => hb (Addr.key_inj e)
    simp [State.readByte, State.admits, Memory.get_set, hk, hb]

/-! ## Word and long accesses -/

theorem State.readWord_eq_next {s : State} {a : Addr} {v : Word} :
    s.readWord a = .next v ↔ a.odd = false ∧ s.readByte a = .next (v.extractLsb' 8 8) ∧
      s.readByte (a.add 1) = .next (v.extractLsb' 0 8) := by
  unfold State.readWord
  split
  · rename_i h
    simp [h]
  · rename_i h
    simp only [Res.andThen_eq_next]
    constructor
    · rintro ⟨hi, h1, lo, h2, h3⟩
      cases h3
      exact ⟨by simpa using h, by rw [h1, extract_append_high hi lo], by rw [h2, extract_append_low hi lo]⟩
    · rintro ⟨-, h1, h2⟩
      exact ⟨_, h1, _, h2, congrArg Host.Outcome.next (append_extract (n := 8) (m := 8) v)⟩

theorem State.readLong_eq_next {s : State} {a : Addr} {v : Long} :
    s.readLong a = .next v ↔ s.readWord a = .next (v.extractLsb' 16 16) ∧
      s.readWord (a.add 2) = .next (v.extractLsb' 0 16) := by
  unfold State.readLong
  simp only [Res.andThen_eq_next]
  constructor
  · rintro ⟨hi, h1, lo, h2, h3⟩
    cases h3
    exact ⟨by rw [h1, extract_append_high hi lo], by rw [h2, extract_append_low hi lo]⟩
  · rintro ⟨h1, h2⟩
    exact ⟨_, h1, _, h2, congrArg Host.Outcome.next (append_extract (n := 16) (m := 16) v)⟩

/-- What a word write can do. -/
theorem State.writeWord_eq_next {s t : State} {a : Addr} {v : Word} :
    s.writeWord a v = .next t ↔ a.odd = false ∧ s.admits a = true ∧ s.admits (a.add 1) = true ∧
      t = { s with mem := (s.mem.set a.key (v.extractLsb' 8 8)).set (a.add 1).key (v.extractLsb' 0 8) } := by
  unfold State.writeWord
  split
  · rename_i h
    simp [h]
  · rename_i h
    simp only [Res.andThen_eq_next, State.writeByte_eq_next]
    constructor
    · rintro ⟨u, ⟨h1, rfl⟩, h2, rfl⟩
      exact ⟨by simpa using h, h1, h2, rfl⟩
    · rintro ⟨-, h1, h2, rfl⟩
      exact ⟨_, ⟨h1, rfl⟩, h2, rfl⟩

/-- What a long write can do. -/
theorem State.writeLong_eq_next {s t : State} {a : Addr} {v : Long} :
    s.writeLong a v = .next t ↔
      ∃ u, s.writeWord a (v.extractLsb' 16 16) = .next u ∧ u.writeWord (a.add 2) (v.extractLsb' 0 16) = .next t := by
  unfold State.writeLong
  simp only [Res.andThen_eq_next]

end Sys2Proof.Machine
end

