-- ==== Sys2Proof/Laws/Ops.lean ====
section
/-! SUPPORT. Laws/Ops.lean: what each shared operation over registers and memory does, said once. -/

namespace Sys2Proof.Machine

/-! ## Registers -/

@[simp] theorem State.setReg_normal (s : State) (k : RegNo) (v : Word) : (s.setReg k v).normal = s.normal := by
  simp [State.normal]

@[simp] theorem State.setReg_isZ8001 (s : State) (k : RegNo) (v : Word) : (s.setReg k v).isZ8001 = s.isZ8001 := by
  simp [State.isZ8001]

@[simp] theorem State.setReg_segmented (s : State) (k : RegNo) (v : Word) : (s.setReg k v).segmented = s.segmented := by
  simp [State.segmented]

/-- Reading a register after writing one. -/
theorem State.reg_setReg (s : State) (k j : RegNo) (v : Word) :
    (s.setReg k v).reg j = if j = k then v else s.reg j := by
  unfold State.reg
  simp only [State.setReg_normal, State.setReg_isZ8001]
  unfold State.setReg
  by_cases hj : j = k
  · subst hj
    by_cases h1 : s.normal = true ∧ j = 15
    · simp only [if_pos h1, if_true]
    · by_cases h2 : s.normal = true ∧ s.isZ8001 = true ∧ j = 14
      · simp only [if_neg h1, if_pos h2, if_true]
      · simp only [if_neg h1, if_neg h2, if_true, Vector.getElem_set_self]
  · have hn : ¬ k.toNat = j.toNat := fun e => hj (BitVec.eq_of_toNat_eq e).symm
    simp only [if_neg hj]
    by_cases h1 : s.normal = true ∧ k = 15
    · have : ¬ (s.normal = true ∧ j = 15) := fun h => hj (h.2.trans h1.2.symm)
      simp only [if_pos h1, if_neg this]
    · by_cases h2 : s.normal = true ∧ s.isZ8001 = true ∧ k = 14
      · have : ¬ (s.normal = true ∧ s.isZ8001 = true ∧ j = 14) := fun h => hj (h.2.2.trans h2.2.2.symm)
        simp only [if_neg h1, if_pos h2, if_neg this]
      · simp only [if_neg h1, if_neg h2, Vector.getElem_set_ne _ _ hn]

@[simp] theorem State.reg_setReg_same (s : State) (k : RegNo) (v : Word) : (s.setReg k v).reg k = v := by
  simp [State.reg_setReg]

theorem State.reg_setReg_other (s : State) {k j : RegNo} (v : Word) (h : j ≠ k) : (s.setReg k v).reg j = s.reg j := by
  simp [State.reg_setReg, h]

/-- The word register of two byte registers is the same exactly when their low three bits are. -/
theorem byteHome_cases (j k : RegNo) : byteHome j = byteHome k → j.msb = k.msb → j = k := by
  revert j k; decide

/-- Reading a register depends on the mode and the register file alone. -/
theorem State.reg_congr {s t : State} (hp : t.par = s.par) (hs : t.fcw.sys = s.fcw.sys) (hr : t.regs = s.regs)
    (h1 : t.nspSeg = s.nspSeg) (h2 : t.nspOff = s.nspOff) (k : RegNo) : t.reg k = s.reg k := by
  simp [State.reg, State.normal, State.isZ8001, hp, hs, hr, h1, h2]

theorem State.reg_setByteReg (s : State) (k j : RegNo) (v : Byte) :
    (s.setByteReg k v).reg j =
      if j = byteHome k then
        if k.msb then (s.reg (byteHome k)).extractLsb' 8 8 ++ v else v ++ (s.reg (byteHome k)).extractLsb' 0 8
      else s.reg j := by
  simp only [State.setByteReg, State.reg_setReg]

theorem State.byteReg_setByteReg (s : State) (k j : RegNo) (v : Byte) :
    (s.setByteReg k v).byteReg j = if j = k then v else s.byteReg j := by
  unfold State.byteReg
  simp only [State.reg_setByteReg]
  by_cases hh : byteHome j = byteHome k
  · by_cases hm : j.msb = k.msb
    · have := byteHome_cases j k hh hm
      subst this
      cases hk : j.msb
      · simp only [if_true, Bool.false_eq_true, if_false]
        exact extract_append_high v _
      · simp only [if_true]
        exact extract_append_low _ v
    · have hne : j ≠ k := fun e => hm (by rw [e])
      simp only [hh, if_true, hne, if_false]
      cases hk : k.msb <;> cases hj : j.msb <;> simp_all
      · exact extract_append_low v _
      · exact extract_append_high _ v
  · have hne : j ≠ k := fun e => hh (by rw [e])
    simp only [hh, if_false, hne]

theorem State.reg_setLongReg (s : State) (k j : RegNo) (v : Long) :
    (s.setLongReg k v).reg j =
      if j = k + 1 then v.extractLsb' 0 16 else if j = k then v.extractLsb' 16 16 else s.reg j := by
  simp only [State.setLongReg, State.reg_setReg]

theorem succ_ne (k : RegNo) : k ≠ k + 1 := by
  revert k; decide

theorem State.longReg_setLongReg_same (s : State) (k : RegNo) (v : Long) : (s.setLongReg k v).longReg k = v := by
  simp only [State.longReg, State.reg_setLongReg, succ_ne k, if_false, if_true]
  exact append_extract (n := 16) (m := 16) v

/-- A register write keeps the copies of the stack pointer that the mode does not name. -/
theorem State.setReg_otherStack (s : State) (k : RegNo) (v : Word) : (s.setReg k v).otherStack = s.otherStack := by
  have n15 : k ≠ 15 → ¬ k.toNat = 15 := fun h e => h (BitVec.eq_of_toNat_eq e)
  have n14 : k ≠ 14 → ¬ k.toNat = 14 := fun h e => h (BitVec.eq_of_toNat_eq e)
  unfold State.otherStack
  simp only [State.setReg_normal, State.setReg_isZ8001]
  unfold State.setReg
  by_cases h1 : s.normal = true ∧ k = 15
  · simp only [if_pos h1, if_pos h1.1]
  · by_cases h2 : s.normal = true ∧ s.isZ8001 = true ∧ k = 14
    · simp only [if_neg h1, if_pos h2]
      simp only [if_pos h2.1, if_pos h2.2.1]
    · simp only [if_neg h1, if_neg h2]
      by_cases hn : s.normal = true
      · simp only [hn, if_true]
        have e15 : k ≠ 15 := fun e => h1 ⟨hn, e⟩
        rw [Vector.getElem_set_ne _ _ (n15 e15)]
        by_cases hz : s.isZ8001 = true
        · have e14 : k ≠ 14 := fun e => h2 ⟨hn, hz, e⟩
          rw [Vector.getElem_set_ne _ _ (n14 e14)]
        · simp only [if_neg hz]
      · simp only [if_neg hn]

/-! ## Pointers -/

@[simp] theorem State.pointer_stepPointer (s : State) (p : RegNo) (k : Word) :
    (s.stepPointer p k).pointer p = (s.pointer p).add k := by
  unfold State.pointer State.stepPointer State.offsetReg
  simp only [State.setReg_segmented]
  cases hs : s.segmented
  · simp [State.near, Addr.add]
  · simp only [if_true, State.reg_setReg_same, State.reg_setReg_other s _ (succ_ne p)]
    rfl

/-! ## Stores -/

theorem State.touchesNext_eq_false {s : State} {a : Addr} {n : Nat} :
    s.touchesNext a n = false ↔
      ∀ i < n, a.add (BitVec.ofNat 16 i) ≠ s.pc ∧ a.add (BitVec.ofNat 16 i) ≠ s.pc.add 1 := by
  simp [State.touchesNext]

/-- What an instruction's store can do. -/
theorem State.store_eq_next {s t : State} {W : Width} {a : Addr} {v : BitVec W.bits} :
    s.store W a v = .next t ↔ s.touchesNext a W.bytes = false ∧ s.write W a v = .next t := by
  unfold State.store
  cases s.touchesNext a W.bytes <;> simp

/-- The bytes of a wide access have different addresses. -/
theorem add_ofNat_ne {a : Addr} {i j : Nat} (hi : i < 65536) (hj : j < 65536) (h : i ≠ j) :
    a.add (BitVec.ofNat 16 i) ≠ a.add (BitVec.ofNat 16 j) := by
  intro e
  have := congrArg BitVec.toNat ((Addr.add_inj a _ _).1 e)
  simp only [BitVec.toNat_ofNat] at this
  omega

/-- A write changes memory alone. -/
theorem State.write_only {s t : State} {W : Width} {a : Addr} {v : BitVec W.bits} (h : s.write W a v = .next t) :
    t = { s with mem := t.mem } := by
  cases W with
  | byte => obtain ⟨-, rfl⟩ := State.writeByte_eq_next.1 h; rfl
  | word => obtain ⟨-, -, -, rfl⟩ := State.writeWord_eq_next.1 h; rfl
  | long =>
    obtain ⟨u, h1, h2⟩ := State.writeLong_eq_next.1 h
    obtain ⟨-, -, -, rfl⟩ := State.writeWord_eq_next.1 h1
    obtain ⟨-, -, -, rfl⟩ := State.writeWord_eq_next.1 h2
    rfl

end Sys2Proof.Machine
end

