-- ==== Sys2Proof/Laws/Control.lean ====
section
/-! SUPPORT. What the control operations do: the frame of an entry, a halted step, the PC a trap saves, the read of a register with reserved bits, sampling MI, and
the multi-micro request. -/

namespace Sys2Proof.Machine

/-- The frame an entry pushes is the one the claims name. -/
theorem entryFrame_eq_frame (s : State) : s.entryFrame = s.frame ∧ s.entryBytes = s.frameSize := by
  refine ⟨?_, rfl⟩
  by_cases h : s.isZ8001
  · simp_all [State.entryFrame, State.entryBytes, State.frame, State.frameSize, State.systemStack, State.systemMode, State.pointer,
      State.stackReg, State.segmented, State.isZ8001, State.reg, State.normal]
  · simp_all [State.entryFrame, State.entryBytes, State.frame, State.frameSize, State.systemStack, State.systemMode, State.pointer,
      State.stackReg, State.segmented, State.isZ8001, State.reg, State.normal, State.near]

/-- The system call's check of the frame. -/
theorem touchesNext_entryFrame (s : State) : s.touchesNext s.entryFrame s.entryBytes = false ↔ s.frameApart := by
  rw [(entryFrame_eq_frame s).1, (entryFrame_eq_frame s).2, State.touchesNext_eq_false, State.frameApart]

/-- SC with its frame apart from the next word is the entry. -/
theorem execSc_of_frameApart (s : State) (v : Byte) (h : s.frameApart) :
    execSc v s = enter .systemCall (instrWord (.sc v)) s.pc s := by
  simp [execSc, (touchesNext_entryFrame s).2 h]

/-- While halted a step only examines the boundary. -/
theorem step_of_halted (s : State) (hr : s.resetReq = false) (hh : s.halted = true) : step s = boundary s s := by
  simp [step, hr, hh]

/-- With the default rule a trap saves the address of the first word plus 2: the length of the other words before `s.pc`. -/
theorem trapPc_firstWordPlusTwo (s : State) (i : Instr) (first : Word) (others : List Word)
    (hr : s.par.trapPcRule = .firstWordPlusTwo) (he : encode i = first :: others) :
    s.trapPc i = s.pc.add (-(BitVec.ofNat 16 (2 * others.length))) := by
  have hlen : BitVec.ofNat 16 (2 * (others.length + 1)) = BitVec.ofNat 16 (2 * others.length) + 2#16 := by
    simp [Nat.mul_add, BitVec.ofNat_add]
  simp only [State.trapPc, hr, State.instrPc, he, Addr.add, List.length_cons, hlen]
  congr 1
  bv_omega

/-- With the other rule a trap saves the address of the next instruction. -/
theorem trapPc_nextInstruction (s : State) (i : Instr) (hr : s.par.trapPcRule = .nextInstruction) : s.trapPc i = s.pc := by
  simp [State.trapPc, hr]

/-- The identifier of a trap is the first word. -/
theorem instrWord_of_encode (i : Instr) (first : Word) (others : List Word) (he : encode i = first :: others) :
    instrWord i = first := by simp [instrWord, he]

/-- A read of a register with reserved bits gives the stored high byte, and the stored word whole where no reserved bit is 1. -/
theorem lowByteRead_cases (s : State) (stored reserved : Word) :
    ∃ x n, s.lowByteRead stored reserved = (x, { s with free := n }) ∧ stored &&& 0xFF00 = x &&& 0xFF00 ∧
      (stored &&& reserved = 0 → x = stored) := by
  unfold State.lowByteRead
  by_cases h : stored &&& reserved = 0
  · exact ⟨stored, s.free, by rw [if_pos h], rfl, fun _ => rfl⟩
  · refine ⟨_, _, if_neg h, ?_, fun g => absurd g h⟩
    generalize Config.freeValue 8 s.free = f
    refine BitVec.eq_of_getLsbD_eq fun i hi => ?_
    rw [BitVec.getLsbD_and, BitVec.getLsbD_and, BitVec.getLsbD_append]
    interval_cases i <;> simp

/-- A sample of MI that the environment gives is used up and draws no free value. -/
theorem miSampled_cons (s : State) (p : Pin) (rest : List Pin) (h : s.miIn = p :: rest) :
    s.miLevel = p ∧ s.miSampled = { s with miIn := rest } := by
  simp [State.miLevel, State.miSampled, h]

/-- A sample the environment does not give draws one free value. -/
theorem miSampled_nil (s : State) (h : s.miIn = []) : s.miSampled = { s with free := s.free + 1 } := by
  simp [State.miSampled, h]

/-- MREQ with MI low leaves the resource alone. -/
theorem multiMicroRequest_low (s : State) (d : RegNo) (h : s.miLevel = .low) :
    multiMicroRequest d s = s.miSampled.resourceBusy := by
  simp [multiMicroRequest, h, State.resourceBusy]

/-- MREQ with MI high makes the request, and the second sample decides. -/
theorem multiMicroRequest_high (s : State) (d : RegNo) (h : s.miLevel = .high) :
    multiMicroRequest d s = s.miSampled.miSampled.resourceRequested d s.miSampled.miLevel := by
  simp only [multiMicroRequest, h, State.resourceRequested, State.setReg_fcw]
  cases s.miSampled.miLevel <;> rfl

end Sys2Proof.Machine
end

