-- ==== Sys2Proof/Laws/Encoding.lean ====
section
/-! SUPPORT. Laws/Encoding.lean: the fields of the words the encoder builds, and that every operand is read back. -/

namespace Sys2Proof

/-! ## Fields of words -/

@[simp] theorem fieldM_firstWord (m : BitVec 2) (op : BitVec 6) (a b : BitVec 4) : fieldM (firstWord m op a b) = m := by
  apply BitVec.eq_of_getLsbD_eq
  intro i hi
  simp [fieldM, firstWord, hi]
  grind

@[simp] theorem fieldOp_firstWord (m : BitVec 2) (op : BitVec 6) (a b : BitVec 4) :
    fieldOp (firstWord m op a b) = op := by
  apply BitVec.eq_of_getLsbD_eq
  intro i hi
  simp [fieldOp, firstWord, hi]
  grind

@[simp] theorem fieldA_firstWord (m : BitVec 2) (op : BitVec 6) (a b : BitVec 4) :
    fieldA (firstWord m op a b) = a := by
  apply BitVec.eq_of_getLsbD_eq
  intro i hi
  simp [fieldA, firstWord, hi]
  grind

@[simp] theorem fieldB_firstWord (m : BitVec 2) (op : BitVec 6) (a b : BitVec 4) :
    fieldB (firstWord m op a b) = b := by
  exact extract_append_low (m ++ op ++ a) b

/-- A first word is its four fields. -/
theorem firstWord_fields (w : Word) : firstWord (fieldM w) (fieldOp w) (fieldA w) (fieldB w) = w := by
  apply BitVec.eq_of_getLsbD_eq
  intro i hi
  simp only [fieldM, fieldOp, fieldA, fieldB, firstWord, BitVec.getLsbD_append, BitVec.getLsbD_extractLsb']
  grind

@[simp] theorem fieldM_compactWord (k : BitVec 2) (f : BitVec 4) (v : BitVec 8) : fieldM (compactWord k f v) = 3 := by
  apply BitVec.eq_of_getLsbD_eq
  intro i hi
  simp only [fieldM, compactWord, BitVec.getLsbD_append, BitVec.getLsbD_extractLsb']
  have : i = 0 ∨ i = 1 := by omega
  obtain rfl | rfl := this <;> rfl

@[simp] theorem compactWord_kind (k : BitVec 2) (f : BitVec 4) (v : BitVec 8) :
    (compactWord k f v).extractLsb' 12 2 = k := by
  apply BitVec.eq_of_getLsbD_eq
  intro i hi
  simp [compactWord, hi]
  grind

@[simp] theorem compactWord_field (k : BitVec 2) (f : BitVec 4) (v : BitVec 8) :
    (compactWord k f v).extractLsb' 8 4 = f := by
  apply BitVec.eq_of_getLsbD_eq
  intro i hi
  simp [compactWord, hi]
  grind

@[simp] theorem compactWord_low (k : BitVec 2) (f : BitVec 4) (v : BitVec 8) :
    (compactWord k f v).extractLsb' 0 8 = v := by
  exact extract_append_low (0b11#2 ++ k ++ f) v

@[simp] theorem secondWord_high (r d t : BitVec 4) : (secondWord r d t).extractLsb' 12 4 = 0 := by
  apply BitVec.eq_of_getLsbD_eq
  intro i hi
  simp [secondWord, hi]
  grind

@[simp] theorem secondWord_r (r d t : BitVec 4) : (secondWord r d t).extractLsb' 8 4 = r := by
  apply BitVec.eq_of_getLsbD_eq
  intro i hi
  simp [secondWord, hi]
  grind

@[simp] theorem secondWord_d (r d t : BitVec 4) : (secondWord r d t).extractLsb' 4 4 = d := by
  apply BitVec.eq_of_getLsbD_eq
  intro i hi
  simp [secondWord, hi]
  grind

@[simp] theorem secondWord_t (r d t : BitVec 4) : (secondWord r d t).extractLsb' 0 4 = t := by
  exact extract_append_low (0#4 ++ r ++ d) t

/-! ## Codes -/

@[simp] theorem ofCode_code (cc : Cond) : Cond.ofCode cc.code = cc := by
  cases cc <;> rfl

@[simp] theorem code_ofCode (c : BitVec 4) : (Cond.ofCode c).code = c := by
  revert c; decide

@[simp] theorem ctl_ofCode_code (c : CtlReg) : CtlReg.ofCode c.code = some c := by
  cases c <;> rfl

/-! ## Reading operands back -/

@[simp] theorem Parse.andThen_ok {α β : Type} (a : α) (rest : List Word) (f : α → List Word → Parse β) :
    (Parse.ok a rest).andThen f = f a rest := rfl

@[simp] theorem Parse.andThen_short {α β : Type} (f : α → List Word → Parse β) :
    (Parse.short : Parse α).andThen f = .short := rfl

@[simp] theorem Parse.andThen_bad {α β : Type} (f : α → List Word → Parse β) :
    (Parse.bad : Parse α).andThen f = .bad := rfl

@[simp] theorem Parse.map_ok {α β : Type} (f : α → β) (a : α) (rest : List Word) :
    (Parse.ok a rest).map f = .ok (f a) rest := rfl

@[simp] theorem Parse.map_short {α β : Type} (f : α → β) : (Parse.short : Parse α).map f = .short := rfl

@[simp] theorem Parse.map_bad {α β : Type} (f : α → β) : (Parse.bad : Parse α).map f = .bad := rfl

/-- Reading two things one after the other was reading the first and then the second. -/
theorem Parse.andThen_eq_ok {α β : Type} {p : Parse α} {f : α → List Word → Parse β} {b : β} {rest : List Word} :
    p.andThen f = .ok b rest ↔ ∃ a ws, p = .ok a ws ∧ f a ws = .ok b rest := by
  cases p <;> simp

theorem Parse.map_eq_ok {α β : Type} {p : Parse α} {f : α → β} {b : β} {rest : List Word} :
    p.map f = .ok b rest ↔ ∃ a, p = .ok a rest ∧ f a = b := by
  cases p <;> simp [and_comm]

@[simp] theorem parseWord_cons (w : Word) (ws : List Word) : parseWord (w :: ws) = .ok w ws := rfl

@[simp] theorem parseSecond_secondWord (r d t : BitVec 4) (ws : List Word) :
    parseSecond (secondWord r d t :: ws) = .ok (r, d, t) ws := by
  simp [parseSecond]

@[simp] theorem parseOneReg_secondWord (r : BitVec 4) (ws : List Word) :
    parseOneReg (secondWord r 0#4 0#4 :: ws) = .ok r ws := by
  simp [parseOneReg]

theorem parseAddr_words {seg : Bool} {a : AddrField} (h : a.wf seg = true) (rest : List Word) :
    parseAddr seg (a.words ++ rest) = .ok a rest := by
  cases a with
  | near w => simp_all [AddrField.wf, AddrField.words, parseAddr]
  | short g o =>
    have h1 : (0#1 ++ g ++ o).msb = false := by simp [BitVec.msb_eq_getLsbD_last]; grind
    have h2 : (0#1 ++ g ++ o).extractLsb' 8 7 = g := by
      apply BitVec.eq_of_getLsbD_eq
      intro i hi
      simp [hi]
      grind
    have h3 : (0#1 ++ g ++ o).extractLsb' 0 8 = o := extract_append_low (0#1 ++ g) o
    simp only [AddrField.wf] at h
    simp [h, AddrField.words, parseAddr, h1, h2, h3]
  | long g o =>
    have h1 : (1#1 ++ g ++ 0#8).msb = true := by simp [BitVec.msb_eq_getLsbD_last]; grind
    have h2 : (1#1 ++ g ++ 0#8).extractLsb' 8 7 = g := by
      apply BitVec.eq_of_getLsbD_eq
      intro i hi
      simp [hi]
      grind
    simp only [AddrField.wf] at h
    simp [h, AddrField.words, parseAddr, h1, h2]

@[simp] theorem parseImm_words (W : Width) (v : BitVec W.bits) (rest : List Word) :
    parseImm W (immWords v ++ rest) = .ok v rest := by
  cases W with
  | byte =>
    have h1 : (v ++ v : BitVec 16).extractLsb' 8 8 = v := extract_append_high (n := 8) (m := 8) v v
    have h2 : (v ++ v : BitVec 16).extractLsb' 0 8 = v := extract_append_low (n := 8) (m := 8) v v
    simp only [parseImm, immWords, List.cons_append, List.nil_append, parseWord_cons, Parse.andThen_ok, h1, h2, if_true]
  | word => simp [parseImm, immWords]
  | long =>
    simp only [parseImm, immWords, List.cons_append, List.nil_append, parseWord_cons, Parse.andThen_ok, Parse.map_ok]
    rw [append_extract (n := 16) (m := 16)]

theorem Mem.mode_ne_two (m : Mem) : m.mode ≠ 2#2 := by
  cases m <;> simp [Mem.mode]

theorem Mem.mode_ne_three (m : Mem) : m.mode ≠ 3#2 := by
  cases m <;> simp [Mem.mode]

theorem Dst.mode_ne_three (d : Dst) : d.mode ≠ 3#2 := by
  cases d with
  | reg k => simp [Dst.mode]
  | mem m => exact m.mode_ne_three

theorem Src.mode_ne_three {W : Width} (s : Src W) : s.mode ≠ 3#2 := by
  cases s with
  | reg k => simp [Src.mode]
  | imm v => simp [Src.mode]
  | mem m => exact m.mode_ne_three

theorem EpaOp.mode_ne_three (op : EpaOp) : op.mode ≠ 3#2 := by
  cases op <;> simp [EpaOp.mode]

theorem parseMem_words {seg : Bool} {m : Mem} (h : m.wf seg = true) (rest : List Word) :
    parseMem seg m.mode m.field (m.words ++ rest) = .ok m rest := by
  cases m with
  | ir p => simp [parseMem, Mem.mode, Mem.field, Mem.words]
  | da a => simp [parseMem, Mem.mode, Mem.field, Mem.words, parseAddr_words h]
  | x a i =>
    simp only [Mem.wf, Bool.and_eq_true, nonzeroReg, bne_iff_ne, ne_eq] at h
    have h2 : ¬ i = 0#4 := h.2
    simp [parseMem, Mem.mode, Mem.field, Mem.words, parseAddr_words h.1, h2]

theorem parseDst_words {seg : Bool} {W : Width} {d : Dst} (h : d.wf seg W = true) (rest : List Word) :
    parseDst seg d.mode d.field (d.words ++ rest) = .ok d rest := by
  cases d with
  | reg k => simp [parseDst, Dst.mode, Dst.field, Dst.words]
  | mem m =>
    have := m.mode_ne_two
    simp only [Dst.wf] at h
    simp [parseDst, Dst.mode, Dst.field, Dst.words, this, parseMem_words h]

theorem Mem.field_ne {seg : Bool} {m : Mem} (h : m.wf seg = true) : ¬(m.mode = 0 ∧ m.field = 0) := by
  cases m <;> simp_all [Mem.mode, Mem.field, Mem.wf, pointerReg, nonzeroReg]

theorem parseSrc_words {seg : Bool} {W : Width} {s : Src W} (h : s.wf seg = true) (rest : List Word) :
    parseSrc seg W s.mode s.field (s.words ++ rest) = .ok s rest := by
  cases s with
  | reg k => simp [parseSrc, Src.mode, Src.field, Src.words]
  | imm v => simp [parseSrc, Src.mode, Src.field, Src.words]
  | mem m =>
    have h2 : m.mode ≠ 2 := m.mode_ne_two
    simp only [Src.wf] at h
    simp only [parseSrc, Src.mode, Src.field, Src.words, h2, Mem.field_ne h, if_false, parseMem_words h, Parse.map_ok]

theorem parseBased_words {seg : Bool} {src : Based} (h : src.wf seg = true) (based : Based → Instr) (rel : Word → Instr)
    (op : BitVec 6) (b : BitVec 4) (rest : List Word) :
    ∃ m a ws, encBased op src b = firstWord m op a b :: ws ∧ (m = 0 ∨ m = 1) ∧
      parseBased based rel m a (ws ++ rest) = .ok (based src) rest := by
  cases src with
  | ba p disp =>
    simp only [Based.wf, pointerReg, nonzeroReg, Bool.and_eq_true, bne_iff_ne, ne_eq] at h
    have hp : ¬ p = 0#4 := h.1
    exact ⟨0, p, [disp], rfl, .inl rfl, by simp [parseBased, hp]⟩
  | bx p i =>
    have h1 := parseOneReg_secondWord i rest
    exact ⟨1, p, [secondWord i 0 0], rfl, .inr rfl, by simp_all [parseBased]⟩

/-- The decoder on a first word that is not compact. -/
theorem decodeWords_firstWord (seg : Bool) {m : BitVec 2} (hm : m ≠ 3#2) (op : BitVec 6) (a b : BitVec 4)
    (ws : List Word) :
    decodeWords seg (firstWord m op a b :: ws) =
      (parse seg m op a b ws).andThen fun i rest => if i.wf seg then .ok i rest else .bad := by
  simp [decodeWords, hm]

/-- The decoder on a compact first word. -/
theorem decodeWords_compactWord (seg : Bool) (k : BitVec 2) (f : BitVec 4) (v : BitVec 8) (ws : List Word) :
    decodeWords seg (compactWord k f v :: ws) =
      (parseCompact (compactWord k f v) ws).andThen fun i rest => if i.wf seg then .ok i rest else .bad := by
  simp [decodeWords]

end Sys2Proof
end

