-- ==== Sys2Proof/Laws/Stores.lean ====
section
/-! SUPPORT. Laws/Stores.lean: what a write and a store leave to read, and when they go through. -/

namespace Sys2Proof.Machine

/-- A byte read after a word write. -/
theorem State.readByte_writeWord {s t : State} {a : Addr} {v : Word} (h : s.writeWord a v = .next t) (b : Addr) :
    t.readByte b =
      if a.add 1 = b then .next (v.extractLsb' 0 8) else if a = b then .next (v.extractLsb' 8 8) else s.readByte b := by
  unfold State.writeWord at h
  split at h
  · simp at h
  · obtain ⟨u, h1, h2⟩ := Res.andThen_eq_next.1 h
    rw [State.readByte_writeByte h2, State.readByte_writeByte h1]

/-- A byte read after a long write. -/
theorem State.readByte_writeLong {s t : State} {a : Addr} {v : Long} (h : s.writeLong a v = .next t) (b : Addr) :
    t.readByte b =
      if a.add 3 = b then .next (v.extractLsb' 0 8) else if a.add 2 = b then .next (v.extractLsb' 8 8)
      else if a.add 1 = b then .next (v.extractLsb' 16 8) else if a = b then .next (v.extractLsb' 24 8)
      else s.readByte b := by
  obtain ⟨u, h1, h2⟩ := State.writeLong_eq_next.1 h
  have e1 : (a.add 2).add 1 = a.add 3 := by rw [Addr.add_add]; rfl
  have x1 : (v.extractLsb' 0 16).extractLsb' 0 8 = v.extractLsb' 0 8 := by
    apply BitVec.eq_of_getLsbD_eq; intro i hi; simp [hi]
  have x2 : (v.extractLsb' 0 16).extractLsb' 8 8 = v.extractLsb' 8 8 := by
    apply BitVec.eq_of_getLsbD_eq; intro i hi; simp [hi]
  have x3 : (v.extractLsb' 16 16).extractLsb' 0 8 = v.extractLsb' 16 8 := by
    apply BitVec.eq_of_getLsbD_eq; intro i hi; simp [hi]; grind
  have x4 : (v.extractLsb' 16 16).extractLsb' 8 8 = v.extractLsb' 24 8 := by
    apply BitVec.eq_of_getLsbD_eq; intro i hi; simp [hi]; grind
  rw [State.readByte_writeWord h2, State.readByte_writeWord h1, e1, x1, x2, x3, x4]

/-- A write stores the value at the address, and changes nothing else. -/
theorem State.stored_of_write {s t : State} {W : Width} {a : Addr} {v : BitVec W.bits} (h : s.write W a v = .next t) :
    s.Stored W a v t := by
  refine ⟨State.write_only h, ?_, ?_⟩
  · cases W with
    | byte =>
      show t.readByte a = _
      rw [State.readByte_writeByte h, if_pos rfl]
    | word =>
      have n1 : ¬ a.add 1 = a := Addr.add_ne_self (by decide)
      obtain ⟨ho, -⟩ := State.writeWord_eq_next.1 h
      refine State.readWord_eq_next.2 ⟨ho, ?_, ?_⟩
      · rw [State.readByte_writeWord h, if_neg n1, if_pos rfl]
      · rw [State.readByte_writeWord h, if_pos rfl]
    | long =>
      have n (k l : Word) (e : k ≠ l) : ¬ a.add k = a.add l := fun e' => e ((Addr.add_inj a k l).1 e')
      have n0 (k : Word) (e : k ≠ 0) : ¬ a.add k = a := Addr.add_ne_self e
      have e1 : (a.add 2).add 1 = a.add 3 := by rw [Addr.add_add]; rfl
      obtain ⟨u, h1, h2⟩ := State.writeLong_eq_next.1 h
      obtain ⟨ho, -⟩ := State.writeWord_eq_next.1 h1
      obtain ⟨ho2, -⟩ := State.writeWord_eq_next.1 h2
      refine State.readLong_eq_next.2 ⟨State.readWord_eq_next.2 ⟨ho, ?_, ?_⟩, State.readWord_eq_next.2 ⟨ho2, ?_, ?_⟩⟩
      · rw [State.readByte_writeLong h, if_neg (n0 3 (by decide)), if_neg (n0 2 (by decide)), if_neg (n0 1 (by decide)),
          if_pos rfl]
        congr 1; apply BitVec.eq_of_getLsbD_eq; intro i hi; simp [hi]; grind
      · rw [State.readByte_writeLong h, if_neg (n 3 1 (by decide)), if_neg (n 2 1 (by decide)), if_pos rfl]
        congr 1; apply BitVec.eq_of_getLsbD_eq; intro i hi; simp [hi]; grind
      · rw [State.readByte_writeLong h, if_neg (n 3 2 (by decide)), if_pos rfl]
        congr 1; apply BitVec.eq_of_getLsbD_eq; intro i hi; simp [hi]
      · rw [e1, State.readByte_writeLong h, if_pos rfl]
        congr 1; apply BitVec.eq_of_getLsbD_eq; intro i hi; simp [hi]
  · intro b hb
    cases W with
    | byte =>
      have h0 := hb 0 (by decide)
      rw [Addr.add_zero] at h0
      rw [State.readByte_writeByte h, if_neg (Ne.symm h0)]
    | word =>
      have h0 := hb 0 (by decide)
      have h1 : ¬ a.add 1 = b := Ne.symm (hb 1 (by decide))
      rw [Addr.add_zero] at h0
      rw [State.readByte_writeWord h, if_neg h1, if_neg (Ne.symm h0)]
    | long =>
      have h0 := hb 0 (by decide)
      have h1 : ¬ a.add 1 = b := Ne.symm (hb 1 (by decide))
      have h2 : ¬ a.add 2 = b := Ne.symm (hb 2 (by decide))
      have h3 : ¬ a.add 3 = b := Ne.symm (hb 3 (by decide))
      rw [Addr.add_zero] at h0
      rw [State.readByte_writeLong h, if_neg h3, if_neg h2, if_neg h1, if_neg (Ne.symm h0)]

/-- Two words on, an address is as even as before. -/
theorem Addr.odd_add_two (a : Addr) : (a.add 2).odd = a.odd := by
  have : ∀ x : Word, (x + 2#16).getLsbD 0 = x.getLsbD 0 := by
    intro x
    simp only [BitVec.getLsbD_eq_getElem (show 0 < 16 by decide), BitVec.getElem_eq_testBit_toNat, BitVec.toNat_add,
      Nat.testBit_zero, BitVec.toNat_ofNat]
    simp
  exact this a.off

/-- A write of an aligned operand to admitted bytes goes through. -/
theorem State.write_next {s : State} {W : Width} {a : Addr} (v : BitVec W.bits) (ho : W = .byte ∨ a.odd = false)
    (ha : ∀ i < W.bytes, s.admits (a.add (BitVec.ofNat 16 i)) = true) : ∃ t, s.write W a v = .next t := by
  have h0 := ha 0 (by cases W <;> decide)
  rw [show a.add (BitVec.ofNat 16 0) = a from Addr.add_zero a] at h0
  cases W with
  | byte => exact ⟨_, State.writeByte_eq_next.2 ⟨h0, rfl⟩⟩
  | word =>
    have ho : a.odd = false := by simpa using ho
    exact ⟨_, State.writeWord_eq_next.2 ⟨ho, h0, ha 1 (by decide), rfl⟩⟩
  | long =>
    have ho : a.odd = false := by simpa using ho
    have e1 : (a.add 2).add 1 = a.add 3 := by rw [Addr.add_add]; rfl
    refine ⟨_, State.writeLong_eq_next.2 ⟨_, State.writeWord_eq_next.2 ⟨ho, h0, ha 1 (by decide), rfl⟩,
      State.writeWord_eq_next.2 ⟨by rw [Addr.odd_add_two, ho], ha 2 (by decide), ?_, rfl⟩⟩⟩
    rw [e1]
    exact ha 3 (by decide)

/-- A store that is allowed goes through, and stores the value. -/
theorem State.store_next {s : State} {W : Width} {a : Addr} (v : BitVec W.bits) (h : s.CanStore W a) :
    ∃ t, s.Stored W a v t ∧ s.store W a v = .next t := by
  obtain ⟨t, ht⟩ := State.write_next v h.aligned h.admitted
  exact ⟨t, State.stored_of_write ht, State.store_eq_next.2 ⟨State.touchesNext_eq_false.2 h.apart, ht⟩⟩

/-- A register or memory operand that can be written is written. -/
theorem State.writeDst_next {s : State} {W : Width} {dst : Dst} (v : BitVec W.bits) (h : s.CanWrite W dst) :
    ∃ t, s.Written W dst v t ∧ s.writeDst W dst v = .next t := by
  cases dst with
  | reg k => exact ⟨_, rfl, rfl⟩
  | mem m => exact State.store_next v h

/-- What a read-modify-write does. -/
theorem State.modify_next {s : State} {W : Width} {dst : Dst} {result : BitVec W.bits → BitVec W.bits}
    {flags : BitVec W.bits → Fcw} {v : BitVec W.bits} (hv : s.readDst W dst = .next v) (h : s.CanWrite W dst) :
    ∃ t, s.Written W dst (result v) t ∧ s.modify W dst result flags = .next { t with fcw := flags v } := by
  obtain ⟨t, h1, h2⟩ := State.writeDst_next (result v) h
  exact ⟨t, h1, by simp [State.modify, hv, h2]⟩

/-! ## The canonical form of memory -/

/-- Memory after an operation is in canonical form if it was before. -/
theorem State.writeByte_wf {s t : State} {a : Addr} {v : Byte} (h : s.writeByte a v = .next t) (hw : s.mem.wf) :
    t.mem.wf := by
  obtain ⟨-, rfl⟩ := State.writeByte_eq_next.1 h
  exact Memory.set_wf hw _ _

theorem State.write_wf {s t : State} {W : Width} {a : Addr} {v : BitVec W.bits} (h : s.write W a v = .next t)
    (hw : s.mem.wf) : t.mem.wf := by
  cases W with
  | byte => exact State.writeByte_wf h hw
  | word =>
    obtain ⟨-, -, -, rfl⟩ := State.writeWord_eq_next.1 h
    exact Memory.set_wf (Memory.set_wf hw _ _) _ _
  | long =>
    obtain ⟨u, h1, h2⟩ := State.writeLong_eq_next.1 h
    obtain ⟨-, -, -, rfl⟩ := State.writeWord_eq_next.1 h1
    obtain ⟨-, -, -, rfl⟩ := State.writeWord_eq_next.1 h2
    exact Memory.set_wf (Memory.set_wf (Memory.set_wf (Memory.set_wf hw _ _) _ _) _ _) _ _

theorem State.store_wf {s t : State} {W : Width} {a : Addr} {v : BitVec W.bits} (h : s.store W a v = .next t)
    (hw : s.mem.wf) : t.mem.wf :=
  State.write_wf (State.store_eq_next.1 h).2 hw

/-- Memory at reset is in canonical form. -/
theorem reset_memory_wf : State.reset.mem.wf := List.Pairwise.nil

end Sys2Proof.Machine
end

