-- ==== Sys2Proof/Tests/Slice0.lean ====
section
/-! SUPPORT. The model's own tests: an ill-formed term for each check of WellFormed.lean; for every constructor a word written
out from the encoding of spec/opcode_table.json; single steps with the values of 95_test_vectors.md; and for every statement of
Obligations.lean with hypotheses a state and operands that meet them. -/

namespace Sys2Proof.Tests

open Sys2Proof.Machine

/-! ## Small states -/

/-- A machine with the parameters of reset but the variant, in the middle of a run: the FCW, PC %1000 in segment 0, the
registers and the memory words given. -/
def machine (v : Variant) (fcw : Word) (regs : List (Nat × Word)) (mem : List (Nat × Word)) : State :=
  let par := { Params.default with variant := v }
  { State.reset with
      par := par
      resetReq := false
      fcw := .ofWord par fcw
      pc := ⟨0, 0x1000⟩
      regs := regs.foldl (fun r p => r.setIfInBounds p.1 p.2) State.reset.regs
      mem := mem.foldl (fun m p => (Memory.set m p.1 (p.2.extractLsb' 8 8)).set (p.1 + 1) (p.2.extractLsb' 0 8)) [] }

/-- A program status area of a Z8002 at %4000. -/
def statusArea : List (Nat × Word) :=
  [(0x400C, 0x4000), (0x400E, 0x0500), (0x4008, 0x4000), (0x400A, 0x0600), (0x4014, 0x4000), (0x4016, 0x0680),
    (0x4018, 0x4000), (0x401A, 0x06C0), (0x401C, 0x4000), (0x4022, 0x0700), (0x4024, 0x0780), (0x4004, 0x4000),
    (0x4006, 0x0580)]

/-- What a result shows, if it is a next state. -/
def seen {α β : Type} (r : Res α) (f : α → β) : Option β :=
  match r with
  | .next t => some (f t)
  | .fault _ | .refused _ => none

/-- The fault of a result. -/
def faultOf {α : Type} : Res α → Option Fault
  | .fault r => some r
  | .next _ | .refused _ => none

/-- The refusal of a result. -/
def refusalOf {α : Type} : Res α → Option Refusal
  | .refused r => some r
  | .next _ | .fault _ => none

/-- The word at a place in memory. -/
def wordAt (t : State) (k : Nat) : Option Word := do return (← t.mem.get k) ++ (← t.mem.get (k + 1))

theorem next_of {α : Type} {r : Res α} {v : α} (h : seen r id = some v) : r = .next v := by
  cases r <;> simp_all [seen]

theorem answers {α : Type} {r : Res α} (h : (seen r fun _ => ()).isSome = true) : ∃ t, r = .next t := by
  cases r <;> simp_all [seen]

/-! ## WellFormed: an ill-formed term for each check -/

theorem test_wf_pair_even : (Instr.ldl 3 (.reg 4)).wf false = false ∧ (Instr.ldl 4 (.reg 3)).wf false = false ∧
    (Instr.div 5 (.reg 1)).wf false = false ∧ (Instr.exts 7).wf false = false ∧ (Instr.sdal 1 2).wf false = false ∧
    (Instr.ldrlStore 4 9).wf false = false ∧ (Instr.testl (.reg 3)).wf false = false ∧
    (Instr.popl (.reg 5) 2).wf false = false ∧ (Instr.pushl 2 (.reg 5)).wf false = false ∧
    (Instr.ldlStore (.ir 2) 3).wf false = false ∧ (Instr.ldlBased 3 (.ba 2 0)).wf false = false ∧
    (Instr.ldlStoreBased (.ba 2 0) 3).wf false = false ∧ (Instr.slal 3 1).wf false = false := by decide

theorem test_wf_quadruple : (Instr.multl 2 (.reg 4)).wf false = false ∧ (Instr.divl 6 (.reg 4)).wf false = false ∧
    (Instr.extsl 1).wf false = false := by decide

theorem test_wf_pointer : (Instr.ld 1 (.mem (.ir 0))).wf false = false ∧ (Instr.ld 1 (.mem (.ir 3))).wf true = false ∧
    (Instr.push 0 (.reg 1)).wf false = false ∧ (Instr.pop (.reg 1) 3).wf true = false ∧
    (Instr.ldir 0 2 3).wf false = false ∧ (Instr.ldir 2 0 3).wf false = false ∧ (Instr.cpi 1 0 3 .z).wf false = false ∧
    (Instr.cpsi 0 2 3 .z).wf false = false ∧ (Instr.trib 0 2 3).wf false = false ∧ (Instr.trib 2 5 3).wf true = false ∧
    (Instr.ini 0 2 3).wf false = false ∧ (Instr.outi 2 0 3).wf false = false ∧
    (Instr.ldBased 1 (.ba 0 4)).wf false = false ∧ (Instr.ldps (.ir 0)).wf false = false := by decide

theorem test_wf_register_zero : (Instr.ld 1 (.mem (.x (.near 0) 0))).wf false = false ∧
    (Instr.ldBased 1 (.bx 2 0)).wf false = false ∧ (Instr.ldaIndexed 1 (.near 0) 0).wf false = false ∧
    (Instr.inp 1 (.ind 0)).wf false = false ∧ (Instr.outb (.ind 0) 1).wf false = false ∧
    (Instr.ini 2 0 3).wf false = false ∧ (Instr.outi 0 2 3).wf false = false := by decide

theorem test_wf_address_form : (Instr.clr (.mem (.da (.short 1 2)))).wf false = false ∧
    (Instr.clr (.mem (.da (.near 2)))).wf true = false ∧ (Instr.jp .t (.x (.long 1 2) 3)).wf false = false ∧
    (Instr.lda 2 (.near 2)).wf true = false := by decide

theorem test_wf_address_destination : (Instr.lda 3 (.short 1 2)).wf true = false ∧ (Instr.ldar 3 0).wf true = false ∧
    (Instr.ldaBased 5 (.ba 2 0)).wf true = false ∧ (Instr.ldaIndexed 5 (.long 1 2) 3).wf true = false := by decide

theorem test_wf_dynamic_bit_register : (Instr.bitbDyn 1 8).wf false = false ∧ (Instr.setbDyn 1 15).wf false = false ∧
    (Instr.resbDyn 1 9).wf false = false := by decide

theorem test_wf_shift_count : (Instr.slab 1 9).wf false = false ∧ (Instr.srab 1 0).wf false = false ∧
    (Instr.srlb 1 9).wf false = false ∧ (Instr.sla 1 17).wf false = false ∧ (Instr.srl 1 0).wf false = false ∧
    (Instr.slll 2 33).wf false = false ∧ (Instr.sral 2 0).wf false = false ∧ (Instr.srll 2 33).wf false = false := by decide

/-! ## Decoding: one word for every constructor, from spec/opcode_table.json -/

theorem test_decode_load_and_exchange_1 :
    decodeWords false [0x8C48] = .ok (.clrb (.reg 4)) [] ∧
    decodeWords false [0x4D08, 0x1234] = .ok (.clr (.mem (.da (.near 0x1234)))) [] ∧
    decodeWords false [0xAC84] = .ok (.exb 4 (.reg 8)) [] ∧
    decodeWords false [0x6D04, 0x1234] = .ok (.ex 4 (.mem (.da (.near 0x1234)))) [] ∧
    decodeWords false [0x6004, 0x1234] = .ok (.ldb 4 (.mem (.da (.near 0x1234)))) [] ∧
    decodeWords false [0x3084, 0xFFF6] = .ok (.ldbBased 4 (.ba 8 0xFFF6)) [] ∧
    decodeWords false [0x2E48] = .ok (.ldbStore (.ir 4) 8) [] ∧
    decodeWords false [0x3248, 0xFFF6] = .ok (.ldbStoreBased (.ba 4 0xFFF6) 8) [] ∧
    decodeWords false [0x4C05, 0x1234, 0x7979] = .ok (.ldbStoreImm (.da (.near 0x1234)) 0x79) [] ∧
    decodeWords false [0xC497] = .ok (.ldbShort 4 0x97) [] ∧
    decodeWords false [0xA184] = .ok (.ld 4 (.reg 8)) [] ∧
    decodeWords false [0x3184, 0xFFF6] = .ok (.ldBased 4 (.ba 8 0xFFF6)) [] ∧
    decodeWords false [0x2F48] = .ok (.ldStore (.ir 4) 8) [] ∧
    decodeWords false [0x3348, 0xFFF6] = .ok (.ldStoreBased (.ba 4 0xFFF6) 8) [] ∧
    decodeWords false [0x4D05, 0x1234, 0x5678] = .ok (.ldStoreImm (.da (.near 0x1234)) 0x5678) [] ∧
    decodeWords false [0x9484] = .ok (.ldl 4 (.reg 8)) [] := by decide

theorem test_decode_load_and_exchange_2 :
    decodeWords false [0x3584, 0xFFF6] = .ok (.ldlBased 4 (.ba 8 0xFFF6)) [] ∧
    decodeWords false [0x5D08, 0x1234] = .ok (.ldlStore (.da (.near 0x1234)) 8) [] ∧
    decodeWords false [0x3748, 0xFFF6] = .ok (.ldlStoreBased (.ba 4 0xFFF6) 8) [] ∧
    decodeWords false [0x7604, 0x1234] = .ok (.lda 4 (.near 0x1234)) [] ∧
    decodeWords false [0x7664, 0x1234] = .ok (.ldaIndexed 4 (.near 0x1234) 6) [] ∧
    decodeWords false [0x3484, 0xFFF6] = .ok (.ldaBased 4 (.ba 8 0xFFF6)) [] ∧
    decodeWords false [0x3404, 0xFFF6] = .ok (.ldar 4 0xFFF6) [] ∧
    decodeWords false [0xBD42] = .ok (.ldk 4 2) [] ∧
    decodeWords false [0x1C81, 0x0402] = .ok (.ldmLoad 4 (.ir 8) 2) [] ∧
    decodeWords false [0x5C69, 0x0802, 0x1234] = .ok (.ldmStore (.x (.near 0x1234) 6) 8 2) [] ∧
    decodeWords false [0x3004, 0xFFF6] = .ok (.ldrb 4 0xFFF6) [] ∧
    decodeWords false [0x3208, 0xFFF6] = .ok (.ldrbStore 0xFFF6 8) [] ∧
    decodeWords false [0x3104, 0xFFF6] = .ok (.ldr 4 0xFFF6) [] ∧
    decodeWords false [0x3308, 0xFFF6] = .ok (.ldrStore 0xFFF6 8) [] ∧
    decodeWords false [0x3504, 0xFFF6] = .ok (.ldrl 4 0xFFF6) [] ∧
    decodeWords false [0x3708, 0xFFF6] = .ok (.ldrlStore 0xFFF6 8) [] := by decide

theorem test_decode_load_and_exchange_3 :
    decodeWords false [0x9784] = .ok (.pop (.reg 4) 8) [] ∧
    decodeWords false [0x5580, 0x1234] = .ok (.popl (.mem (.da (.near 0x1234))) 8) [] ∧
    decodeWords false [0x5340, 0x1234] = .ok (.push 4 (.mem (.da (.near 0x1234)))) [] ∧
    decodeWords false [0x5140, 0x1234] = .ok (.pushl 4 (.mem (.da (.near 0x1234)))) [] := by decide

theorem test_decode_arithmetic_1 :
    decodeWords false [0xB484] = .ok (.adcb 4 8) [] ∧
    decodeWords false [0xB584] = .ok (.adc 4 8) [] ∧
    decodeWords false [0xB684] = .ok (.sbcb 4 8) [] ∧
    decodeWords false [0xB784] = .ok (.sbc 4 8) [] ∧
    decodeWords false [0x4004, 0x1234] = .ok (.addb 4 (.mem (.da (.near 0x1234)))) [] ∧
    decodeWords false [0x8184] = .ok (.add 4 (.reg 8)) [] ∧
    decodeWords false [0x1684] = .ok (.addl 4 (.mem (.ir 8))) [] ∧
    decodeWords false [0x4264, 0x1234] = .ok (.subb 4 (.mem (.x (.near 0x1234) 6))) [] ∧
    decodeWords false [0x0304, 0x5678] = .ok (.sub 4 (.imm 0x5678)) [] ∧
    decodeWords false [0x5204, 0x1234] = .ok (.subl 4 (.mem (.da (.near 0x1234)))) [] ∧
    decodeWords false [0x8A84] = .ok (.cpb 4 (.reg 8)) [] ∧
    decodeWords false [0x0B84] = .ok (.cp 4 (.mem (.ir 8))) [] ∧
    decodeWords false [0x5064, 0x1234] = .ok (.cpl 4 (.mem (.x (.near 0x1234) 6))) [] ∧
    decodeWords false [0x4C61, 0x1234, 0x7979] = .ok (.cpbImm (.x (.near 0x1234) 6) 0x79) [] ∧
    decodeWords false [0x4D01, 0x1234, 0x5678] = .ok (.cpImm (.da (.near 0x1234)) 0x5678) [] ∧
    decodeWords false [0xB040] = .ok (.dab 4) [] := by decide

theorem test_decode_arithmetic_2 :
    decodeWords false [0xA842] = .ok (.incb (.reg 4) 2) [] ∧
    decodeWords false [0x6902, 0x1234] = .ok (.inc (.mem (.da (.near 0x1234))) 2) [] ∧
    decodeWords false [0xAA42] = .ok (.decb (.reg 4) 2) [] ∧
    decodeWords false [0x6B02, 0x1234] = .ok (.dec (.mem (.da (.near 0x1234))) 2) [] ∧
    decodeWords false [0x9984] = .ok (.mult 4 (.reg 8)) [] ∧
    decodeWords false [0x1884] = .ok (.multl 4 (.mem (.ir 8))) [] ∧
    decodeWords false [0x5B64, 0x1234] = .ok (.div 4 (.mem (.x (.near 0x1234) 6))) [] ∧
    decodeWords false [0x1A04, 0x1357, 0x9BDF] = .ok (.divl 4 (.imm 0x13579BDF)) [] ∧
    decodeWords false [0xB140] = .ok (.extsb 4) [] ∧
    decodeWords false [0xB14A] = .ok (.exts 4) [] ∧
    decodeWords false [0xB147] = .ok (.extsl 4) [] ∧
    decodeWords false [0x4C02, 0x1234] = .ok (.negb (.mem (.da (.near 0x1234)))) [] ∧
    decodeWords false [0x8D42] = .ok (.neg (.reg 4)) [] := by decide

theorem test_decode_logical_1 :
    decodeWords false [0x8684] = .ok (.andb 4 (.reg 8)) [] ∧
    decodeWords false [0x0784] = .ok (.and 4 (.mem (.ir 8))) [] ∧
    decodeWords false [0x4464, 0x1234] = .ok (.orb 4 (.mem (.x (.near 0x1234) 6))) [] ∧
    decodeWords false [0x0504, 0x5678] = .ok (.or 4 (.imm 0x5678)) [] ∧
    decodeWords false [0x4804, 0x1234] = .ok (.xorb 4 (.mem (.da (.near 0x1234)))) [] ∧
    decodeWords false [0x8984] = .ok (.xor 4 (.reg 8)) [] ∧
    decodeWords false [0x8C40] = .ok (.comb (.reg 4)) [] ∧
    decodeWords false [0x4D00, 0x1234] = .ok (.com (.mem (.da (.near 0x1234)))) [] ∧
    decodeWords false [0x8C44] = .ok (.testb (.reg 4)) [] ∧
    decodeWords false [0x4D04, 0x1234] = .ok (.test (.mem (.da (.near 0x1234)))) [] ∧
    decodeWords false [0x9C48] = .ok (.testl (.reg 4)) [] := by decide

theorem test_decode_program_control_1 :
    decodeWords false [0x1F40] = .ok (.call (.ir 4)) [] ∧
    decodeWords false [0xD02A] = .ok (.calr 0x02A) [] ∧
    decodeWords false [0xF52A] = .ok (.dbjnz 5 0x2A) [] ∧
    decodeWords false [0xF5AA] = .ok (.djnz 5 0x2A) [] ∧
    decodeWords false [0x7B00] = .ok .iret [] ∧
    decodeWords false [0x5E0B, 0x1234] = .ok (.jp .ugt (.da (.near 0x1234))) [] ∧
    decodeWords false [0xEB2A] = .ok (.jr .ugt 0x2A) [] ∧
    decodeWords false [0x9E0B] = .ok (.ret .ugt) [] ∧
    decodeWords false [0x7F97] = .ok (.sc 0x97) [] := by decide

theorem test_decode_bit_manipulation_1 :
    decodeWords false [0xA643] = .ok (.bitb (.reg 4) 3) [] ∧
    decodeWords false [0x2602, 0x0400] = .ok (.bitbDyn 4 2) [] ∧
    decodeWords false [0xA743] = .ok (.bit (.reg 4) 3) [] ∧
    decodeWords false [0x2708, 0x0400] = .ok (.bitDyn 4 8) [] ∧
    decodeWords false [0xA243] = .ok (.resb (.reg 4) 3) [] ∧
    decodeWords false [0x2202, 0x0400] = .ok (.resbDyn 4 2) [] ∧
    decodeWords false [0xA343] = .ok (.res (.reg 4) 3) [] ∧
    decodeWords false [0x2308, 0x0400] = .ok (.resDyn 4 8) [] ∧
    decodeWords false [0xA443] = .ok (.setb (.reg 4) 3) [] ∧
    decodeWords false [0x2402, 0x0400] = .ok (.setbDyn 4 2) [] ∧
    decodeWords false [0xA543] = .ok (.set (.reg 4) 3) [] ∧
    decodeWords false [0x2508, 0x0400] = .ok (.setDyn 4 8) [] ∧
    decodeWords false [0xAE4B] = .ok (.tccb .ugt 4) [] ∧
    decodeWords false [0xAF4B] = .ok (.tcc .ugt 4) [] ∧
    decodeWords false [0x8C46] = .ok (.tsetb (.reg 4)) [] ∧
    decodeWords false [0x4D06, 0x1234] = .ok (.tset (.mem (.da (.near 0x1234)))) [] := by decide

theorem test_decode_rotate_and_shift_1 :
    decodeWords false [0xB242] = .ok (.rlb 4 true) [] ∧
    decodeWords false [0xB342] = .ok (.rl 4 true) [] ∧
    decodeWords false [0xB24A] = .ok (.rlcb 4 true) [] ∧
    decodeWords false [0xB34A] = .ok (.rlc 4 true) [] ∧
    decodeWords false [0xB246] = .ok (.rrb 4 true) [] ∧
    decodeWords false [0xB346] = .ok (.rr 4 true) [] ∧
    decodeWords false [0xB24E] = .ok (.rrcb 4 true) [] ∧
    decodeWords false [0xB34E] = .ok (.rrc 4 true) [] ∧
    decodeWords false [0xBE89] = .ok (.rldb 9 8) [] ∧
    decodeWords false [0xBC89] = .ok (.rrdb 9 8) [] ∧
    decodeWords false [0xB24B, 0x0800] = .ok (.sdab 4 8) [] ∧
    decodeWords false [0xB34B, 0x0800] = .ok (.sda 4 8) [] ∧
    decodeWords false [0xB34F, 0x0800] = .ok (.sdal 4 8) [] ∧
    decodeWords false [0xB243, 0x0800] = .ok (.sdlb 4 8) [] ∧
    decodeWords false [0xB343, 0x0800] = .ok (.sdl 4 8) [] ∧
    decodeWords false [0xB347, 0x0800] = .ok (.sdll 4 8) [] := by decide

theorem test_decode_rotate_and_shift_2 :
    decodeWords false [0xB249, 0x0005] = .ok (.slab 4 5) [] ∧
    decodeWords false [0xB349, 0x0005] = .ok (.sla 4 5) [] ∧
    decodeWords false [0xB34D, 0x0005] = .ok (.slal 4 5) [] ∧
    decodeWords false [0xB241, 0x0005] = .ok (.sllb 4 5) [] ∧
    decodeWords false [0xB341, 0x0005] = .ok (.sll 4 5) [] ∧
    decodeWords false [0xB345, 0x0005] = .ok (.slll 4 5) [] ∧
    decodeWords false [0xB249, 0x00FB] = .ok (.srab 4 5) [] ∧
    decodeWords false [0xB349, 0xFFFB] = .ok (.sra 4 5) [] ∧
    decodeWords false [0xB34D, 0xFFFB] = .ok (.sral 4 5) [] ∧
    decodeWords false [0xB241, 0x00FB] = .ok (.srlb 4 5) [] ∧
    decodeWords false [0xB341, 0xFFFB] = .ok (.srl 4 5) [] ∧
    decodeWords false [0xB345, 0xFFFB] = .ok (.srll 4 5) [] := by decide

theorem test_decode_block_transfer_and_string_compare_1 :
    decodeWords false [0xBA88, 0x054B] = .ok (.cpdb 4 8 5 .ugt) [] ∧
    decodeWords false [0xBB88, 0x054B] = .ok (.cpd 4 8 5 .ugt) [] ∧
    decodeWords false [0xBA8C, 0x054B] = .ok (.cpdrb 4 8 5 .ugt) [] ∧
    decodeWords false [0xBB8C, 0x054B] = .ok (.cpdr 4 8 5 .ugt) [] ∧
    decodeWords false [0xBA80, 0x054B] = .ok (.cpib 4 8 5 .ugt) [] ∧
    decodeWords false [0xBB80, 0x054B] = .ok (.cpi 4 8 5 .ugt) [] ∧
    decodeWords false [0xBA84, 0x054B] = .ok (.cpirb 4 8 5 .ugt) [] ∧
    decodeWords false [0xBB84, 0x054B] = .ok (.cpir 4 8 5 .ugt) [] ∧
    decodeWords false [0xBA8A, 0x054B] = .ok (.cpsdb 4 8 5 .ugt) [] ∧
    decodeWords false [0xBB8A, 0x054B] = .ok (.cpsd 4 8 5 .ugt) [] ∧
    decodeWords false [0xBA8E, 0x054B] = .ok (.cpsdrb 4 8 5 .ugt) [] ∧
    decodeWords false [0xBB8E, 0x054B] = .ok (.cpsdr 4 8 5 .ugt) [] ∧
    decodeWords false [0xBA82, 0x054B] = .ok (.cpsib 4 8 5 .ugt) [] ∧
    decodeWords false [0xBB82, 0x054B] = .ok (.cpsi 4 8 5 .ugt) [] ∧
    decodeWords false [0xBA86, 0x054B] = .ok (.cpsirb 4 8 5 .ugt) [] ∧
    decodeWords false [0xBB86, 0x054B] = .ok (.cpsir 4 8 5 .ugt) [] := by decide

theorem test_decode_block_transfer_and_string_compare_2 :
    decodeWords false [0xBA89, 0x0548] = .ok (.lddb 4 8 5) [] ∧
    decodeWords false [0xBB89, 0x0548] = .ok (.ldd 4 8 5) [] ∧
    decodeWords false [0xBA89, 0x0540] = .ok (.lddrb 4 8 5) [] ∧
    decodeWords false [0xBB89, 0x0540] = .ok (.lddr 4 8 5) [] ∧
    decodeWords false [0xBA81, 0x0548] = .ok (.ldib 4 8 5) [] ∧
    decodeWords false [0xBB81, 0x0548] = .ok (.ldi 4 8 5) [] ∧
    decodeWords false [0xBA81, 0x0540] = .ok (.ldirb 4 8 5) [] ∧
    decodeWords false [0xBB81, 0x0540] = .ok (.ldir 4 8 5) [] := by decide

theorem test_decode_translate_1 :
    decodeWords false [0xB848, 0x0580] = .ok (.trdb 4 8 5) [] ∧
    decodeWords false [0xB84C, 0x0580] = .ok (.trdrb 4 8 5) [] ∧
    decodeWords false [0xB840, 0x0580] = .ok (.trib 4 8 5) [] ∧
    decodeWords false [0xB844, 0x0580] = .ok (.trirb 4 8 5) [] ∧
    decodeWords false [0xB88A, 0x05A0] = .ok (.trtdb 8 10 5) [] ∧
    decodeWords false [0xB88E, 0x05AE] = .ok (.trtdrb 8 10 5) [] ∧
    decodeWords false [0xB882, 0x05A0] = .ok (.trtib 8 10 5) [] ∧
    decodeWords false [0xB886, 0x05AE] = .ok (.trtirb 8 10 5) [] := by decide

theorem test_decode_input_and_output_1 :
    decodeWords false [0x3C84] = .ok (.inpb 4 (.ind 8)) [] ∧
    decodeWords false [0x3D84] = .ok (.inp 4 (.ind 8)) [] ∧
    decodeWords false [0x3E48] = .ok (.outb (.ind 4) 8) [] ∧
    decodeWords false [0x3F48] = .ok (.out (.ind 4) 8) [] ∧
    decodeWords false [0x3A45, 0x0120] = .ok (.sinb 4 0x0120) [] ∧
    decodeWords false [0x3B45, 0x0120] = .ok (.sin 4 0x0120) [] ∧
    decodeWords false [0x3A87, 0x0120] = .ok (.soutb 0x0120 8) [] ∧
    decodeWords false [0x3B87, 0x0120] = .ok (.sout 0x0120 8) [] ∧
    decodeWords false [0x3A88, 0x0548] = .ok (.indb 4 8 5) [] ∧
    decodeWords false [0x3B88, 0x0548] = .ok (.ind 4 8 5) [] ∧
    decodeWords false [0x3A88, 0x0540] = .ok (.indrb 4 8 5) [] ∧
    decodeWords false [0x3B88, 0x0540] = .ok (.indr 4 8 5) [] ∧
    decodeWords false [0x3A80, 0x0548] = .ok (.inib 4 8 5) [] ∧
    decodeWords false [0x3B80, 0x0548] = .ok (.ini 4 8 5) [] ∧
    decodeWords false [0x3A80, 0x0540] = .ok (.inirb 4 8 5) [] ∧
    decodeWords false [0x3B80, 0x0540] = .ok (.inir 4 8 5) [] := by decide

theorem test_decode_input_and_output_2 :
    decodeWords false [0x3A8A, 0x0540] = .ok (.otdrb 4 8 5) [] ∧
    decodeWords false [0x3B8A, 0x0540] = .ok (.otdr 4 8 5) [] ∧
    decodeWords false [0x3A82, 0x0540] = .ok (.otirb 4 8 5) [] ∧
    decodeWords false [0x3B82, 0x0540] = .ok (.otir 4 8 5) [] ∧
    decodeWords false [0x3A8A, 0x0548] = .ok (.outdb 4 8 5) [] ∧
    decodeWords false [0x3B8A, 0x0548] = .ok (.outd 4 8 5) [] ∧
    decodeWords false [0x3A82, 0x0548] = .ok (.outib 4 8 5) [] ∧
    decodeWords false [0x3B82, 0x0548] = .ok (.outi 4 8 5) [] ∧
    decodeWords false [0x3A89, 0x0548] = .ok (.sindb 4 8 5) [] ∧
    decodeWords false [0x3B89, 0x0548] = .ok (.sind 4 8 5) [] ∧
    decodeWords false [0x3A89, 0x0540] = .ok (.sindrb 4 8 5) [] ∧
    decodeWords false [0x3B89, 0x0540] = .ok (.sindr 4 8 5) [] ∧
    decodeWords false [0x3A81, 0x0548] = .ok (.sinib 4 8 5) [] ∧
    decodeWords false [0x3B81, 0x0548] = .ok (.sini 4 8 5) [] ∧
    decodeWords false [0x3A81, 0x0540] = .ok (.sinirb 4 8 5) [] ∧
    decodeWords false [0x3B81, 0x0540] = .ok (.sinir 4 8 5) [] := by decide

theorem test_decode_input_and_output_3 :
    decodeWords false [0x3A8B, 0x0548] = .ok (.soutdb 4 8 5) [] ∧
    decodeWords false [0x3B8B, 0x0548] = .ok (.soutd 4 8 5) [] ∧
    decodeWords false [0x3A83, 0x0548] = .ok (.soutib 4 8 5) [] ∧
    decodeWords false [0x3B83, 0x0548] = .ok (.souti 4 8 5) [] ∧
    decodeWords false [0x3A8B, 0x0540] = .ok (.sotdrb 4 8 5) [] ∧
    decodeWords false [0x3B8B, 0x0540] = .ok (.sotdr 4 8 5) [] ∧
    decodeWords false [0x3A83, 0x0540] = .ok (.sotirb 4 8 5) [] ∧
    decodeWords false [0x3B83, 0x0540] = .ok (.sotir 4 8 5) [] := by decide

theorem test_decode_cpu_control_1 :
    decodeWords false [0x8D55] = .ok (.comflg 5) [] ∧
    decodeWords false [0x7C01] = .ok (.di true false) [] ∧
    decodeWords false [0x7C05] = .ok (.ei true false) [] ∧
    decodeWords false [0x7A00] = .ok .halt [] ∧
    decodeWords false [0x7D45] = .ok (.ldctlRead 4 .psapOff) [] ∧
    decodeWords false [0x7D8D] = .ok (.ldctlWrite .psapOff 8) [] ∧
    decodeWords false [0x8C41] = .ok (.ldctlbRead 4) [] ∧
    decodeWords false [0x8C89] = .ok (.ldctlbWrite 8) [] ∧
    decodeWords false [0x7900, 0x1234] = .ok (.ldps (.da (.near 0x1234))) [] ∧
    decodeWords false [0x7B0A] = .ok .mbit [] ∧
    decodeWords false [0x7B4D] = .ok (.mreq 4) [] ∧
    decodeWords false [0x7B09] = .ok .mres [] ∧
    decodeWords false [0x7B08] = .ok .mset [] ∧
    decodeWords false [0x8D07] = .ok .nop [] ∧
    decodeWords false [0x8D53] = .ok (.resflg 5) [] ∧
    decodeWords false [0x8D51] = .ok (.setflg 5) [] := by decide

theorem test_decode_extended_instructions_1 :
    decodeWords false [0x0E5C] = .ok (.epa .x0E 0x5C) [] := by decide

theorem test_decode_segmented : decodeWords true [0x6121, 0x0504] = .ok (.ld 1 (.mem (.x (.short 5 4) 2))) [] ∧
    decodeWords true [0x5F00, 0x8300, 0x1234] = .ok (.call (.da (.long 3 0x1234))) [] ∧
    decodeWords true [0x2142] = .ok (.ld 2 (.mem (.ir 4))) [] ∧ decodeWords true [0x2132] = .bad ∧
    decodeWords true [0x6121] = .short := by decide

/-! ## Single steps: the values of 95_test_vectors.md -/

theorem test_step_clr_r3_0 : seen (step (machine .z8002 0x4000 [(3, 0xBEEF)] [(0x1000, 0x8D38)]))
    (fun t => (t.reg 3, t.fcw.toWord, t.pc.off)) = some (0x0000, 0x4000, 0x1002) := by decide

theorem test_step_clrb_rl0_1 : seen (step (machine .z8002 0x4000 [(0, 0x1234)] [(0x1000, 0x8C88)]))
    (fun t => t.reg 0) = some 0x1200 := by decide

theorem test_step_clr_mem_2 : seen (step (machine .z8002 0x4000 [] [(0x2000, 0xFFFF), (0x1000, 0x4D08), (0x1002, 0x2000)]))
    (fun t => wordAt t 0x2000) = some (some 0x0000) := by decide

theorem test_step_clr_x_3 : seen (step (machine .z8002 0x4000 [(1, 0x0010)] [(0x2010, 0xFFFF), (0x1000, 0x4D18), (0x1002, 0x2000)]))
    (fun t => wordAt t 0x2010) = some (some 0x0000) := by decide

theorem test_step_ex_4 : seen (step (machine .z8002 0x4000 [(1, 0x1111), (2, 0x2222)] [(0x1000, 0xAD21)]))
    (fun t => (t.reg 1, t.reg 2)) = some (0x2222, 0x1111) := by decide

theorem test_step_exb_5 : seen (step (machine .z8002 0x4000 [(1, 0x12AB)] [(0x1000, 0xAC91)]))
    (fun t => t.reg 1) = some 0xAB12 := by decide

theorem test_step_ex_6 : seen (step (machine .z8002 0x4000 [(1, 0x1111), (2, 0x3000)] [(0x3000, 0x2222), (0x1000, 0x2D21)]))
    (fun t => (t.reg 1, wordAt t 0x3000)) = some (0x2222, some 0x1111) := by decide

theorem test_step_ldb_7 : seen (step (machine .z8002 0x4000 [(0, 0x00C3), (4, 0x1122)] [(0x1000, 0xA084)]))
    (fun t => t.reg 4) = some 0xC322 := by decide

theorem test_step_ld_8 : seen (step (machine .z8002 0x4000 [] [(0x1000, 0x2101), (0x1002, 0x1234)]))
    (fun t => (t.reg 1, t.pc.off)) = some (0x1234, 0x1004) := by decide

theorem test_step_ldb_9 : seen (step (machine .z8002 0x4000 [(0, 0xFF00)] [(0x1000, 0xC841)]))
    (fun t => t.reg 0) = some 0xFF41 := by decide

theorem test_step_ldl_10 : seen (step (machine .z8002 0x4000 [] [(0x1000, 0x1402), (0x1002, 0x1234), (0x1004, 0x5678)]))
    (fun t => (t.reg 2, t.reg 3, t.pc.off)) = some (0x1234, 0x5678, 0x1006) := by decide

theorem test_step_ld_11 : seen (step (machine .z8002 0x4000 [(2, 0x3000)] [(0x3000, 0x1234), (0x1000, 0x2121)]))
    (fun t => t.reg 1) = some 0x1234 := by decide

theorem test_step_ldb_12 : seen (step (machine .z8002 0x4000 [(2, 0x3001)] [(0x3000, 0x1234), (0x1000, 0x2029)]))
    (fun t => t.reg 1) = some 0x0034 := by decide

theorem test_step_ld_x_13 : seen (step (machine .z8002 0x4000 [(2, 0x0004)] [(0x2004, 0xCAFE), (0x1000, 0x6121), (0x1002, 0x2000)]))
    (fun t => t.reg 1) = some 0xCAFE := by decide

theorem test_step_ld_ba_14 : seen (step (machine .z8002 0x4000 [(2, 0x3000)] [(0x3004, 0x0BAD), (0x1000, 0x3121), (0x1002, 0x0004)]))
    (fun t => t.reg 1) = some 0x0BAD := by decide

theorem test_step_ld_bx_15 : seen (step (machine .z8002 0x4000 [(2, 0x3000), (3, 0xFFFE)] [(0x2FFE, 0xF00D), (0x1000, 0x7121), (0x1002, 0x0300)]))
    (fun t => t.reg 1) = some 0xF00D := by decide

theorem test_step_st_16 : seen (step (machine .z8002 0x4000 [(1, 0x1234), (2, 0x3000)] [(0x1000, 0x2F21)]))
    (fun t => wordAt t 0x3000) = some (some 0x1234) := by decide

theorem test_step_sti_17 : seen (step (machine .z8002 0x4000 [] [(0x1000, 0x4D05), (0x1002, 0x2000), (0x1004, 0x1234)]))
    (fun t => (wordAt t 0x2000, t.pc.off)) = some (some 0x1234, 0x1006) := by decide

theorem test_step_stl_18 : seen (step (machine .z8002 0x4000 [(2, 0x1234), (3, 0x5678)] [(0x1000, 0x5D02), (0x1002, 0x2000)]))
    (fun t => (wordAt t 0x2000, wordAt t 0x2002)) = some (some 0x1234, some 0x5678) := by decide

theorem test_step_lda_19 : seen (step (machine .z8002 0x4000 [(2, 0x0004)] [(0x1000, 0x7621), (0x1002, 0xFFFE)]))
    (fun t => t.reg 1) = some 0x0002 := by decide

theorem test_step_ldar_20 : seen (step (machine .z8002 0x4000 [] [(0x1000, 0x3401), (0x1002, 0x00FC)]))
    (fun t => t.reg 1) = some 0x1100 := by decide

theorem test_step_ldr_21 : seen (step (machine .z8002 0x4000 [] [(0x1100, 0xBEEF), (0x1000, 0x3101), (0x1002, 0x00FC)]))
    (fun t => t.reg 1) = some 0xBEEF := by decide

theorem test_step_ldrst_22 : seen (step (machine .z8002 0x4000 [(1, 0x1234)] [(0x1000, 0x3301), (0x1002, 0xFFFA)]))
    (fun t => wordAt t 0x0FFE) = some (some 0x1234) := by decide

theorem test_step_ldk_23 : seen (step (machine .z8002 0x4000 [(1, 0xFFFF)] [(0x1000, 0xBD1F)]))
    (fun t => t.reg 1) = some 0x000F := by decide

theorem test_step_ldm_24 : seen (step (machine .z8002 0x4000 [(1, 0x2000)] [(0x2000, 0x0001), (0x2002, 0x0002), (0x2004, 0x0003), (0x1000, 0x1C11), (0x1002, 0x0202)]))
    (fun t => (t.reg 2, t.reg 3, t.reg 4, t.reg 1)) = some (0x0001, 0x0002, 0x0003, 0x2000) := by decide

theorem test_step_ldm14_25 : seen (step (machine .z8002 0x4000 [(2, 0x4000)] [(0x4000, 0x000A), (0x4002, 0x000B), (0x4004, 0x000C), (0x1000, 0x1C21), (0x1002, 0x0E02)]))
    (fun t => (t.reg 14, t.reg 15, t.reg 0)) = some (0x000A, 0x000B, 0x000C) := by decide

theorem test_step_ldmst_26 : seen (step (machine .z8002 0x4000 [(1, 0x2000), (2, 0x1111), (3, 0x2222)] [(0x1000, 0x1C19), (0x1002, 0x0201)]))
    (fun t => (wordAt t 0x2000, wordAt t 0x2002)) = some (some 0x1111, some 0x2222) := by decide

theorem test_step_ldmbad_27 : refusalOf (step (machine .z8002 0x4000 [(2, 0x2000)] [(0x1000, 0x1C21), (0x1002, 0x0102)])) = some .ldmOverlap := by decide

theorem test_step_push_28 : seen (step (machine .z8002 0x4000 [(15, 0x8000), (1, 0x1234)] [(0x1000, 0x93F1)]))
    (fun t => (t.reg 15, wordAt t 0x7FFE)) = some (0x7FFE, some 0x1234) := by decide

theorem test_step_push_29 : seen (step (machine .z8002 0x4000 [(15, 0x7FFE)] [(0x1000, 0x0DF9), (0x1002, 0xABCD)]))
    (fun t => (t.reg 15, wordAt t 0x7FFC)) = some (0x7FFC, some 0xABCD) := by decide

theorem test_step_pushl_30 : seen (step (machine .z8002 0x4000 [(15, 0x8000), (2, 0x1234), (3, 0x5678)] [(0x1000, 0x91F2)]))
    (fun t => (t.reg 15, wordAt t 0x7FFC, wordAt t 0x7FFE)) = some (0x7FFC, some 0x1234, some 0x5678) := by decide

theorem test_step_pop_31 : seen (step (machine .z8002 0x4000 [(15, 0x7FFE)] [(0x7FFE, 0x1234), (0x1000, 0x97F2)]))
    (fun t => (t.reg 2, t.reg 15)) = some (0x1234, 0x8000) := by decide

theorem test_step_popl_32 : seen (step (machine .z8002 0x4000 [(15, 0x7FFC)] [(0x7FFC, 0x1234), (0x7FFE, 0x5678), (0x1000, 0x95F4)]))
    (fun t => (t.reg 4, t.reg 5, t.reg 15)) = some (0x1234, 0x5678, 0x8000) := by decide

theorem test_step_pushwrap_33 : seen (step (machine .z8002 0x4000 [(15, 0x0000), (1, 0x1234)] [(0x1000, 0x93F1)]))
    (fun t => (t.reg 15, wordAt t 0xFFFE)) = some (0xFFFE, some 0x1234) := by decide

theorem test_step_popbad_34 : refusalOf (step (machine .z8002 0x4000 [(15, 0x7FFE)] [(0x1000, 0x97FF)])) = some .stackPointerOverlap := by decide

theorem test_step_ldodd_35 : faultOf (step (machine .z8002 0x4000 [(2, 0x3001)] [(0x1000, 0x2121)])) = some .oddAddress := by decide

theorem test_step_add_36 : seen (step (machine .z8002 0x4000 [(1, 0x7FFF), (2, 0x0001)] [(0x1000, 0x8121)]))
    (fun t => (t.reg 1, t.fcw.toWord)) = some (0x8000, 0x4030) := by decide

theorem test_step_addb_37 : seen (step (machine .z8002 0x4000 [(1, 0x0F00), (2, 0x0100)] [(0x1000, 0x8021)]))
    (fun t => (t.reg 1, t.fcw.toWord)) = some (0x1000, 0x4004) := by decide

theorem test_step_addl_38 : seen (step (machine .z8002 0x4000 [(2, 0x7FFF), (3, 0xFFFF), (4, 0x0000), (5, 0x0001)] [(0x1000, 0x9642)]))
    (fun t => (t.reg 2, t.reg 3, t.fcw.toWord)) = some (0x8000, 0x0000, 0x4030) := by decide

theorem test_step_adc_39 : seen (step (machine .z8002 0x4080 [(1, 0xFFFF), (2, 0x0000)] [(0x1000, 0xB521)]))
    (fun t => (t.reg 1, t.fcw.toWord)) = some (0x0000, 0x40C0) := by decide

theorem test_step_adcb_40 : seen (step (machine .z8002 0x4080 [(1, 0xFF00), (2, 0xFF00)] [(0x1000, 0xB421)]))
    (fun t => (t.reg 1, t.fcw.toWord)) = some (0xFF00, 0x40A4) := by decide

theorem test_step_sub_41 : seen (step (machine .z8002 0x4000 [(1, 0x0000), (2, 0x0001)] [(0x1000, 0x8321)]))
    (fun t => (t.reg 1, t.fcw.toWord)) = some (0xFFFF, 0x40A0) := by decide

theorem test_step_subb_42 : seen (step (machine .z8002 0x4000 [(1, 0x1000), (2, 0x0100)] [(0x1000, 0x8221)]))
    (fun t => (t.reg 1, t.fcw.toWord)) = some (0x0F00, 0x400C) := by decide

theorem test_step_subl_43 : seen (step (machine .z8002 0x4000 [(2, 0x0000), (3, 0x0000), (4, 0x0000), (5, 0x0001)] [(0x1000, 0x9242)]))
    (fun t => (t.reg 2, t.reg 3, t.fcw.toWord)) = some (0xFFFF, 0xFFFF, 0x40A0) := by decide

theorem test_step_sbc_44 : seen (step (machine .z8002 0x4080 [(1, 0x8000), (2, 0x0000)] [(0x1000, 0xB721)]))
    (fun t => (t.reg 1, t.fcw.toWord)) = some (0x7FFF, 0x4010) := by decide

theorem test_step_sbcb_45 : seen (step (machine .z8002 0x4080 [(1, 0x1000), (2, 0x0F00)] [(0x1000, 0xB621)]))
    (fun t => (t.reg 1, t.fcw.toWord)) = some (0x0000, 0x404C) := by decide

theorem test_step_cp_46 : seen (step (machine .z8002 0x4000 [(1, 0x0005)] [(0x1000, 0x0B01), (0x1002, 0x0005)]))
    (fun t => (t.reg 1, t.fcw.toWord)) = some (0x0005, 0x4040) := by decide

theorem test_step_cpb_47 : seen (step (machine .z8002 0x4000 [(1, 0x7F00), (2, 0x8000)] [(0x1000, 0x8A21)]))
    (fun t => t.fcw.toWord) = some 0x40B0 := by decide

theorem test_step_inc_48 : seen (step (machine .z8002 0x4080 [(1, 0x7FFF)] [(0x1000, 0xA910)]))
    (fun t => (t.reg 1, t.fcw.toWord)) = some (0x8000, 0x40B0) := by decide

theorem test_step_inc_49 : seen (step (machine .z8002 0x4080 [(1, 0xFFF0)] [(0x1000, 0xA91F)]))
    (fun t => (t.reg 1, t.fcw.toWord)) = some (0x0000, 0x40C0) := by decide

theorem test_step_dec_50 : seen (step (machine .z8002 0x4080 [(1, 0x8000)] [(0x1000, 0xAB10)]))
    (fun t => (t.reg 1, t.fcw.toWord)) = some (0x7FFF, 0x4090) := by decide

theorem test_step_incb16_51 : seen (step (machine .z8002 0x4000 [(0, 0x00FF)] [(0x1000, 0xA88F)]))
    (fun t => (t.reg 0, t.fcw.toWord)) = some (0x000F, 0x4000) := by decide

theorem test_step_neg_52 : seen (step (machine .z8002 0x4000 [(1, 0x8000)] [(0x1000, 0x8D12)]))
    (fun t => (t.reg 1, t.fcw.toWord)) = some (0x8000, 0x40B0) := by decide

theorem test_step_mult_53 : seen (step (machine .z8002 0x4000 [(3, 0xFFFE), (5, 0x0003), (2, 0xAAAA)] [(0x1000, 0x9952)]))
    (fun t => (t.reg 2, t.reg 3, t.fcw.toWord)) = some (0xFFFF, 0xFFFA, 0x4020) := by decide

theorem test_step_multl_54 : seen (step (machine .z8002 0x4000 [(4, 0x0000), (5, 0x0000), (6, 0x8000), (7, 0x0000), (2, 0x0000), (3, 0x0002)] [(0x1000, 0x9824)]))
    (fun t => (t.reg 4, t.reg 5, t.reg 6, t.reg 7, t.fcw.toWord)) = some (0xFFFF, 0xFFFF, 0x0000, 0x0000, 0x40A0) := by decide

theorem test_step_div_55 : seen (step (machine .z8002 0x4000 [(2, 0x0000), (3, 0x0064), (5, 0x0007)] [(0x1000, 0x9B52)]))
    (fun t => (t.reg 2, t.reg 3, t.fcw.toWord)) = some (0x0002, 0x000E, 0x4000) := by decide

theorem test_step_divl_56 : seen (step (machine .z8002 0x4000 [(4, 0x0000), (5, 0x0000), (6, 0x3B9A), (7, 0xCA07), (2, 0x0000), (3, 0x03E8)] [(0x1000, 0x9A24)]))
    (fun t => (t.reg 4, t.reg 5, t.reg 6, t.reg 7, t.fcw.toWord)) = some (0x0000, 0x0007, 0x000F, 0x4240, 0x4000) := by decide

theorem test_step_extsb_57 : seen (step (machine .z8002 0x4000 [(1, 0x0080)] [(0x1000, 0xB110)]))
    (fun t => t.reg 1) = some 0xFF80 := by decide

theorem test_step_exts_58 : seen (step (machine .z8002 0x4000 [(3, 0x8000)] [(0x1000, 0xB12A)]))
    (fun t => (t.reg 2, t.reg 3)) = some (0xFFFF, 0x8000) := by decide

theorem test_step_extsl_59 : seen (step (machine .z8002 0x4000 [(6, 0x8000), (7, 0x0000)] [(0x1000, 0xB147)]))
    (fun t => (t.reg 4, t.reg 5, t.reg 6)) = some (0xFFFF, 0xFFFF, 0x8000) := by decide

theorem test_step_dab_60 : seen (step (machine .z8002 0x4000 [(0, 0x003C)] [(0x1000, 0xB080)]))
    (fun t => (t.reg 0, t.fcw.toWord)) = some (0x0042, 0x4000) := by decide

theorem test_step_log_61 : seen (step (machine .z8002 0x40D0 [(1, 0xF0F0), (2, 0x3C3C)] [(0x1000, 0x8721)]))
    (fun t => (t.reg 1, t.fcw.toWord)) = some (0x3030, 0x4090) := by decide

theorem test_step_logb_62 : seen (step (machine .z8002 0x40D0 [(1, 0xFF00), (2, 0x8100)] [(0x1000, 0x8621)]))
    (fun t => (t.reg 1, t.fcw.toWord)) = some (0x8100, 0x40B0) := by decide

theorem test_step_log_63 : seen (step (machine .z8002 0x40D0 [(1, 0x8000), (2, 0x0001)] [(0x1000, 0x8521)]))
    (fun t => (t.reg 1, t.fcw.toWord)) = some (0x8001, 0x40B0) := by decide

theorem test_step_logb_64 : seen (step (machine .z8002 0x40D0 [(1, 0x7000), (2, 0x0700)] [(0x1000, 0x8421)]))
    (fun t => (t.reg 1, t.fcw.toWord)) = some (0x7700, 0x4090) := by decide

theorem test_step_com_65 : seen (step (machine .z8002 0x4000 [(1, 0x1234)] [(0x1000, 0x8D10)]))
    (fun t => (t.reg 1, t.fcw.toWord)) = some (0xEDCB, 0x4020) := by decide

theorem test_step_testb_66 : seen (step (machine .z8002 0x4000 [(0, 0x0003)] [(0x1000, 0x8C84)]))
    (fun t => (t.reg 0, t.fcw.toWord)) = some (0x0003, 0x4010) := by decide

theorem test_step_testl_67 : seen (step (machine .z8002 0x4000 [(0, 0x8000)] [(0x1000, 0x9C08)]))
    (fun t => t.fcw.toWord) = some 0x4020 := by decide

theorem test_step_call_68 : seen (step (machine .z8002 0x4000 [(15, 0x8000)] [(0x1000, 0x5F00), (0x1002, 0x2000)]))
    (fun t => (wordAt t 0x7FFE, t.reg 15, t.pc.off)) = some (some 0x1004, 0x7FFE, 0x2000) := by decide

theorem test_step_callir_69 : seen (step (machine .z8002 0x4000 [(2, 0x3000), (15, 0x8000)] [(0x1000, 0x1F20)]))
    (fun t => (wordAt t 0x7FFE, t.pc.off)) = some (some 0x1002, 0x3000) := by decide

theorem test_step_calr_70 : seen (step (machine .z8002 0x4000 [(15, 0x8000)] [(0x1000, 0xD081)]))
    (fun t => (wordAt t 0x7FFE, t.pc.off)) = some (some 0x1002, 0x0F00) := by decide

theorem test_step_calr2_71 : seen (step (machine .z8002 0x4000 [(15, 0x8000)] [(0x1000, 0xDF80)]))
    (fun t => t.pc.off) = some 0x1102 := by decide

theorem test_step_djnz_72 : seen (step { machine .z8002 0x4000 [(2, 0x0002)] [(0x1010, 0xF283)] with pc := ⟨0, 0x1010⟩ })
    (fun t => (t.reg 2, t.pc.off)) = some (0x0001, 0x100C) := by decide

theorem test_step_dbjnz_73 : seen (step { machine .z8002 0x4000 [(0, 0x0002)] [(0x1010, 0xF801)] with pc := ⟨0, 0x1010⟩ })
    (fun t => (t.reg 0, t.pc.off)) = some (0x0001, 0x1010) := by decide

theorem test_step_jp_74 : seen (step (machine .z8002 0x4040 [] [(0x1000, 0x5E06), (0x1002, 0x1234)]))
    (fun t => t.pc.off) = some 0x1234 := by decide

theorem test_step_jr_75 : seen (step (machine .z8002 0x4000 [] [(0x1000, 0xE8FF)]))
    (fun t => t.pc.off) = some 0x1000 := by decide

theorem test_step_jr_76 : seen (step (machine .z8002 0x4000 [] [(0x1000, 0xEE07)]))
    (fun t => t.pc.off) = some 0x1010 := by decide

theorem test_step_ret_77 : seen (step (machine .z8002 0x4000 [(15, 0x7FFE)] [(0x7FFE, 0x1004), (0x1000, 0x9E08)]))
    (fun t => (t.pc.off, t.reg 15)) = some (0x1004, 0x8000) := by decide

theorem test_step_retz_78 : seen (step { machine .z8002 0x4000 [(15, 0x7FFE)] [(0x2000, 0x9E06)] with pc := ⟨0, 0x2000⟩ })
    (fun t => (t.pc.off, t.reg 15)) = some (0x2002, 0x7FFE) := by decide

theorem test_step_sc_79 : seen (step { machine .z8002 0x0000 [(15, 0x7FFE)] (statusArea ++ [(0x1234, 0x7F12)]) with pc := ⟨0, 0x1234⟩, psapOff := 0x4000, nspOff := 0xF000 })
    (fun t => (wordAt t 0x7FFC, wordAt t 0x7FFA, wordAt t 0x7FF8, t.regs[15], t.fcw.toWord, t.pc.off)) = some (some 0x1236, some 0x0000, some 0x7F12, 0x7FF8, 0x4000, 0x0500) := by decide

theorem test_step_iret_80 : seen (step (machine .z8002 0x4000 [(15, 0x7FF8)] [(0x7FF8, 0x7F12), (0x7FFA, 0x0000), (0x7FFC, 0x1236), (0x1000, 0x7B00)]))
    (fun t => (t.fcw.toWord, t.pc.off, t.regs[15])) = some (0x0000, 0x1236, 0x7FFE) := by decide

theorem test_step_bit_81 : seen (step (machine .z8002 0x4040 [(1, 0x0008)] [(0x1000, 0xA713)]))
    (fun t => t.fcw.toWord) = some 0x4000 := by decide

theorem test_step_bitb_82 : seen (step (machine .z8002 0x4000 [(0, 0x8000)] [(0x1000, 0xA607)]))
    (fun t => t.fcw.toWord) = some 0x4000 := by decide

theorem test_step_bitdyn_83 : seen (step (machine .z8002 0x4000 [(1, 0x0008), (2, 0x0013)] [(0x1000, 0x2702), (0x1002, 0x0100)]))
    (fun t => t.fcw.toWord) = some 0x4000 := by decide

theorem test_step_set_84 : seen (step (machine .z8002 0x4000 [(1, 0x0000)] [(0x1000, 0xA51F)]))
    (fun t => t.reg 1) = some 0x8000 := by decide

theorem test_step_setb_85 : seen (step (machine .z8002 0x4000 [(0, 0x0000)] [(0x1000, 0xA487)]))
    (fun t => t.reg 0) = some 0x0080 := by decide

theorem test_step_setdyn_86 : seen (step (machine .z8002 0x4000 [(2, 0x0013)] [(0x1000, 0x2502), (0x1002, 0x0100)]))
    (fun t => t.reg 1) = some 0x0008 := by decide

theorem test_step_res_87 : seen (step (machine .z8002 0x4000 [(1, 0xFFFF)] [(0x1000, 0xA310)]))
    (fun t => t.reg 1) = some 0xFFFE := by decide

theorem test_step_tcc_88 : seen (step (machine .z8002 0x4040 [(1, 0x1230)] [(0x1000, 0xAF16)]))
    (fun t => t.reg 1) = some 0x1231 := by decide

theorem test_step_tset_89 : seen (step (machine .z8002 0x4000 [(1, 0x8001)] [(0x1000, 0x8D16)]))
    (fun t => (t.reg 1, t.fcw.toWord)) = some (0xFFFF, 0x4020) := by decide

theorem test_step_tsetb_90 : seen (step (machine .z8002 0x4020 [(2, 0x3000)] [(0x3000, 0x0000), (0x1000, 0x0C26)]))
    (fun t => (wordAt t 0x3000, t.fcw.toWord)) = some (some 0xFF00, 0x4000) := by decide

theorem test_step_rotb310_91 : seen (step (machine .z8002 0x4000 [(1, 0x8001)] [(0x1000, 0xB310)]))
    (fun t => (t.reg 1, t.fcw.toWord)) = some (0x0003, 0x4090) := by decide

theorem test_step_rotb312_92 : seen (step (machine .z8002 0x4000 [(1, 0x4000)] [(0x1000, 0xB312)]))
    (fun t => (t.reg 1, t.fcw.c, t.fcw.z, t.fcw.s)) = some (0x0001, true, false, false) := by decide

theorem test_step_rotb314_93 : seen (step (machine .z8002 0x4000 [(1, 0x0001)] [(0x1000, 0xB314)]))
    (fun t => (t.reg 1, t.fcw.toWord)) = some (0x8000, 0x40B0) := by decide

theorem test_step_rotb316_94 : seen (step (machine .z8002 0x4000 [(1, 0x0002)] [(0x1000, 0xB316)]))
    (fun t => (t.reg 1, t.fcw.toWord)) = some (0x8000, 0x40B0) := by decide

theorem test_step_rotb318_95 : seen (step (machine .z8002 0x4000 [(1, 0x8000)] [(0x1000, 0xB318)]))
    (fun t => (t.reg 1, t.fcw.toWord)) = some (0x0000, 0x40D0) := by decide

theorem test_step_rotb31a_96 : seen (step (machine .z8002 0x4080 [(1, 0x4000)] [(0x1000, 0xB31A)]))
    (fun t => (t.reg 1, t.fcw.c, t.fcw.z, t.fcw.s)) = some (0x0002, true, false, false) := by decide

theorem test_step_rotb21a_97 : seen (step (machine .z8002 0x4080 [(1, 0x8000)] [(0x1000, 0xB21A)]))
    (fun t => (t.reg 1, t.fcw.toWord)) = some (0x0300, 0x4010) := by decide

theorem test_step_rotb31c_98 : seen (step (machine .z8002 0x4000 [(1, 0x0001)] [(0x1000, 0xB31C)]))
    (fun t => (t.reg 1, t.fcw.toWord)) = some (0x0000, 0x40C0) := by decide

theorem test_step_rotb31e_99 : seen (step (machine .z8002 0x4080 [(1, 0x0001)] [(0x1000, 0xB31E)]))
    (fun t => (t.reg 1, t.fcw.toWord)) = some (0xC000, 0x4030) := by decide

theorem test_step_rotb21e_100 : seen (step (machine .z8002 0x4000 [(1, 0x0200)] [(0x1000, 0xB21E)]))
    (fun t => (t.reg 1, t.fcw.toWord)) = some (0x0000, 0x40C0) := by decide

theorem test_step_rotb210_101 : seen (step (machine .z8002 0x4000 [(1, 0x8000)] [(0x1000, 0xB210)]))
    (fun t => (t.reg 1, t.fcw.toWord)) = some (0x0100, 0x4090) := by decide

theorem test_step_dig_102 : seen (step (machine .z8002 0x4000 [(1, 0x0312)] [(0x1000, 0xBE91)]))
    (fun t => (t.reg 1, t.fcw.c, t.fcw.z, t.fcw.pv)) = some (0x0123, false, false, false) := by decide

theorem test_step_dig_103 : seen (step (machine .z8002 0x4000 [(1, 0x0312)] [(0x1000, 0xBC91)]))
    (fun t => (t.reg 1, t.fcw.c, t.fcw.z, t.fcw.pv)) = some (0x0231, false, false, false) := by decide

theorem test_step_sla_104 : seen (step (machine .z8002 0x4000 [(1, 0x4001)] [(0x1000, 0xB319), (0x1002, 0x0002)]))
    (fun t => (t.fcw.c, t.fcw.z, t.fcw.s, t.fcw.pv, t.reg 1)) = some (true, false, false, true, 0x0004) := by decide

theorem test_step_slab_105 : seen (step (machine .z8002 0x4000 [(1, 0x4000)] [(0x1000, 0xB219), (0x1002, 0x0001)]))
    (fun t => (t.fcw.c, t.fcw.z, t.fcw.s, t.fcw.pv, t.reg 1)) = some (false, false, true, true, 0x8000) := by decide

theorem test_step_slal_106 : seen (step (machine .z8002 0x4000 [(4, 0x0000), (5, 0x8000)] [(0x1000, 0xB34D), (0x1002, 0x0010)]))
    (fun t => (t.fcw.c, t.fcw.z, t.fcw.s, t.fcw.pv, t.reg 4, t.reg 5)) = some (false, false, true, true, 0x8000, 0x0000) := by decide

theorem test_step_sra_107 : seen (step (machine .z8002 0x4000 [(1, 0x8003)] [(0x1000, 0xB319), (0x1002, 0xFFFE)]))
    (fun t => (t.fcw.c, t.fcw.z, t.fcw.s, t.fcw.pv, t.reg 1)) = some (true, false, true, false, 0xE000) := by decide

theorem test_step_srab_108 : seen (step (machine .z8002 0x4000 [(1, 0x8100)] [(0x1000, 0xB219), (0x1002, 0x00FF)]))
    (fun t => (t.fcw.c, t.fcw.z, t.fcw.s, t.fcw.pv, t.reg 1)) = some (true, false, true, false, 0xC000) := by decide

theorem test_step_sral_109 : seen (step (machine .z8002 0x4000 [(4, 0x8000), (5, 0x0000)] [(0x1000, 0xB34D), (0x1002, 0xFFE1)]))
    (fun t => (t.fcw.c, t.fcw.z, t.fcw.s, t.fcw.pv, t.reg 4, t.reg 5)) = some (false, false, true, false, 0xFFFF, 0xFFFF) := by decide

theorem test_step_sll_110 : seen (step (machine .z8002 0x4000 [(1, 0x1234)] [(0x1000, 0xB311), (0x1002, 0x0004)]))
    (fun t => (t.fcw.c, t.fcw.z, t.fcw.s, t.reg 1)) = some (true, false, false, 0x2340) := by decide

theorem test_step_slll_111 : seen (step (machine .z8002 0x4000 [(4, 0x0001), (5, 0x0001)] [(0x1000, 0xB345), (0x1002, 0x0010)]))
    (fun t => (t.fcw.c, t.fcw.z, t.fcw.s, t.reg 4, t.reg 5)) = some (true, false, false, 0x0001, 0x0000) := by decide

theorem test_step_srl_112 : seen (step (machine .z8002 0x4000 [(1, 0x1234)] [(0x1000, 0xB311), (0x1002, 0xFFFC)]))
    (fun t => (t.fcw.c, t.fcw.z, t.fcw.s, t.reg 1)) = some (false, false, false, 0x0123) := by decide

theorem test_step_srlb_113 : seen (step (machine .z8002 0x4000 [(1, 0x8100)] [(0x1000, 0xB211), (0x1002, 0x00FF)]))
    (fun t => (t.fcw.c, t.fcw.z, t.fcw.s, t.reg 1)) = some (true, false, false, 0x4000) := by decide

theorem test_step_srll_114 : seen (step (machine .z8002 0x4000 [(4, 0x8000), (5, 0x0001)] [(0x1000, 0xB345), (0x1002, 0xFFFF)]))
    (fun t => (t.fcw.c, t.fcw.z, t.fcw.s, t.reg 4, t.reg 5)) = some (true, false, false, 0x4000, 0x0000) := by decide

theorem test_step_sda_115 : seen (step (machine .z8002 0x4000 [(1, 0x8000), (2, 0xFFFF)] [(0x1000, 0xB31B), (0x1002, 0x0200)]))
    (fun t => (t.fcw.c, t.fcw.z, t.fcw.s, t.fcw.pv, t.reg 1)) = some (false, false, true, false, 0xC000) := by decide

theorem test_step_sdab_116 : seen (step (machine .z8002 0x4000 [(1, 0x8000), (2, 0xFFF8)] [(0x1000, 0xB21B), (0x1002, 0x0200)]))
    (fun t => (t.fcw.c, t.fcw.z, t.fcw.s, t.fcw.pv, t.reg 1)) = some (true, false, true, false, 0xFF00) := by decide

theorem test_step_sdal_117 : seen (step (machine .z8002 0x4000 [(4, 0x4000), (5, 0x0000), (2, 0x0001)] [(0x1000, 0xB34F), (0x1002, 0x0200)]))
    (fun t => (t.fcw.c, t.fcw.z, t.fcw.s, t.fcw.pv, t.reg 4, t.reg 5)) = some (false, false, true, true, 0x8000, 0x0000) := by decide

theorem test_step_sdl_118 : seen (step (machine .z8002 0x4000 [(1, 0x8000), (2, 0xFFF1)] [(0x1000, 0xB313), (0x1002, 0x0200)]))
    (fun t => (t.fcw.c, t.fcw.z, t.fcw.s, t.reg 1)) = some (false, false, false, 0x0001) := by decide

theorem test_step_sdlb_119 : seen (step (machine .z8002 0x4000 [(1, 0xFF00), (2, 0xFFF8)] [(0x1000, 0xB213), (0x1002, 0x0200)]))
    (fun t => (t.fcw.c, t.fcw.z, t.fcw.s, t.reg 1)) = some (true, true, false, 0x0000) := by decide

theorem test_step_sdll_120 : seen (step (machine .z8002 0x4000 [(4, 0x0000), (5, 0x0001), (2, 0x001F)] [(0x1000, 0xB347), (0x1002, 0x0200)]))
    (fun t => (t.fcw.c, t.fcw.z, t.fcw.s, t.reg 4, t.reg 5)) = some (false, false, true, 0x8000, 0x0000) := by decide

theorem test_step_ldi_121 : seen (step (machine .z8002 0x4000 [(1, 0x2000), (2, 0x1000), (3, 0x0001)] [(0x1000, 0xBB21), (0x1002, 0x0318)]))
    (fun t => (wordAt t 0x2000, t.reg 1, t.reg 2, t.reg 3, t.fcw.pv, t.pc.off)) = some (some 0xBB21, 0x2002, 0x1002, 0x0000, true, 0x1004) := by decide

theorem test_step_ldir1_122 : seen (step (machine .z8002 0x4000 [(1, 0x2000), (2, 0x3000), (3, 0x0000)] [(0x3000, 0x1111), (0x1000, 0xBB21), (0x1002, 0x0310)]))
    (fun t => (t.reg 3, t.fcw.pv, t.pc.off)) = some (0xFFFF, false, 0x1000) := by decide

theorem test_step_cpi_123 : seen (step (machine .z8002 0x4000 [(0, 0x0005), (1, 0x3000), (2, 0x0004)] [(0x3000, 0x0006), (0x1000, 0xBB10), (0x1002, 0x0206)]))
    (fun t => (t.reg 1, t.reg 2, t.reg 0, t.fcw.z, t.fcw.pv)) = some (0x3002, 0x0003, 0x0005, false, false) := by decide

theorem test_step_cpd_124 : seen (step (machine .z8002 0x4000 [(0, 0x0005), (1, 0x3002), (2, 0x0001)] [(0x3002, 0x0005), (0x1000, 0xBB18), (0x1002, 0x0206)]))
    (fun t => (t.reg 1, t.reg 2, t.fcw.z, t.fcw.pv)) = some (0x3000, 0x0000, true, true) := by decide

theorem test_step_cpirlt_125 : seen (step (machine .z8002 0x4000 [(0, 0x8000), (1, 0x3000), (2, 0x0005)] [(0x3000, 0x9000), (0x1000, 0xBB14), (0x1002, 0x0201)]))
    (fun t => (t.reg 1, t.reg 2, t.fcw.z, t.fcw.pv, t.pc.off)) = some (0x3002, 0x0004, true, false, 0x1004) := by decide

theorem test_step_ldirbad_126 : refusalOf (step (machine .z8002 0x4000 [(1, 0x2000)] [(0x1000, 0xBB11), (0x1002, 0x0310)])) = some .registerOverlap := by decide

theorem test_step_trib_127 : seen (step (machine .z8002 0x4000 [(2, 0x2000), (3, 0x3000), (4, 0x0005), (1, 0x00BB)] [(0x2000, 0x6100), (0x3060, 0x0041), (0x1000, 0xB820), (0x1002, 0x0430)]))
    (fun t => (wordAt t 0x2000, t.reg 2, t.reg 4, t.fcw.pv)) = some (some 0x4100, 0x2001, 0x0004, false) := by decide

theorem test_step_in_128 : seen (step { machine .z8002 0x4000 [(2, 0x0040)] [(0x1000, 0x3D21)] with ioIn := [0xBEEF] })
    (fun t => t.reg 1) = some 0xBEEF := by decide

theorem test_step_inb_129 : seen (step { machine .z8002 0x4000 [] [(0x1000, 0x3A84), (0x1002, 0x0020)] with ioIn := [0x5A] })
    (fun t => t.reg 0) = some 0x005A := by decide

theorem test_step_setflg_130 : seen (step (machine .z8002 0x4000 [] [(0x1000, 0x8D91)]))
    (fun t => t.fcw.toWord) = some 0x4090 := by decide

theorem test_step_resflg_131 : seen (step (machine .z8002 0x40FC [] [(0x1000, 0x8D43)]))
    (fun t => t.fcw.toWord) = some 0x40BC := by decide

theorem test_step_comflg_132 : seen (step (machine .z8002 0x40A0 [] [(0x1000, 0x8DC5)]))
    (fun t => t.fcw.toWord) = some 0x4060 := by decide

theorem test_step_ldctlb_133 : seen (step (machine .z8002 0x40C0 [] [(0x1000, 0x8C81)]))
    (fun t => t.reg 0) = some 0x00C0 := by decide

theorem test_step_ldctlbw_134 : seen (step (machine .z8002 0x5800 [(0, 0x00FF)] [(0x1000, 0x8C89)]))
    (fun t => t.fcw.toWord) = some 0x58FC := by decide

theorem test_step_ldctlr_135 : seen (step (machine .z8002 0x58C4 [] [(0x1000, 0x7D12)]))
    (fun t => t.reg 1) = some 0x58C4 := by decide

theorem test_step_ldctlw_136 : seen (step (machine .z8002 0x4000 [(1, 0x0000)] [(0x1000, 0x7D1A)]))
    (fun t => t.fcw.toWord) = some 0x0000 := by decide

theorem test_step_ldctlnsp_137 : seen (step { machine .z8002 0x4000 [] [(0x1000, 0x7D47)] with nspOff := 0xF000 })
    (fun t => t.reg 4) = some 0xF000 := by decide

theorem test_step_diei_138 : seen (step (machine .z8002 0x5800 [] [(0x1000, 0x7C01)]))
    (fun t => t.fcw.toWord) = some 0x4800 := by decide

theorem test_step_diei_139 : seen (step (machine .z8002 0x5800 [] [(0x1000, 0x7C00)]))
    (fun t => t.fcw.toWord) = some 0x4000 := by decide

theorem test_step_ldps_140 : seen (step (machine .z8002 0x4000 [(2, 0x3000)] [(0x3000, 0x1800), (0x3002, 0x2000), (0x1000, 0x3920)]))
    (fun t => (t.fcw.toWord, t.pc.off)) = some (0x1800, 0x2000) := by decide

theorem test_step_halt_141 : seen (step (machine .z8002 0x4000 [] [(0x1000, 0x7A00)]))
    (fun t => (t.halted, t.pc.off)) = some (true, 0x1002) := by decide

theorem test_step_mreq_142 : seen (step { machine .z8002 0x4000 [(5, 0x0007)] [(0x1000, 0x7B5D)] with miIn := [.high,.low] })
    (fun t => (t.reg 5, t.fcw.toWord, t.mo)) = some (0x0000, 0x4060, .low) := by decide

theorem test_step_pseg_143 : refusalOf (step (machine .z8002 0x4000 [] [(0x1000, 0x7D14)])) = some .noSuchControlRegister := by decide

theorem test_step_haltn_144 : seen (step { machine .z8002 0x0000 [(15, 0x8000)] (statusArea ++ [(0x1002, 0x7A00)]) with pc := ⟨0, 0x1002⟩, nspOff := 0xF000, psapOff := 0x4000 })
    (fun t => (wordAt t 0x7FFE, wordAt t 0x7FFC, wordAt t 0x7FFA, t.regs[15], t.fcw.toWord, t.pc.off)) = some (some 0x1004, some 0x0000, some 0x7A00, 0x7FFA, 0x4000, 0x0600) := by decide

theorem test_step_inbn_145 : seen (step { machine .z8002 0x0000 [(15, 0x8000)] (statusArea ++ [(0x1000, 0x3A84), (0x1002, 0x0020)]) with nspOff := 0xF000, psapOff := 0x4000 })
    (fun t => (wordAt t 0x7FFE, wordAt t 0x7FFA)) = some (some 0x1002, some 0x3A84) := by decide

theorem test_step_epa_146 : seen (step { machine .z8002 0x4000 [(15, 0x8000)] (statusArea ++ [(0x1000, 0x8F12)]) with nspOff := 0xF000, psapOff := 0x4000 })
    (fun t => (wordAt t 0x7FFE, wordAt t 0x7FFC, wordAt t 0x7FFA, t.pc.off)) = some (some 0x1002, some 0x4000, some 0x8F12, 0x0580) := by decide

theorem test_step_nmi_147 : seen (step { machine .z8002 0x4000 [(15, 0x8000)] (statusArea ++ [(0xFFE, 0x8D07)]) with pc := ⟨0, 0x0FFE⟩, nspOff := 0xF000, psapOff := 0x4000, events := [⟨false,some 0,none,none,none⟩] })
    (fun t => (wordAt t 0x7FFE, wordAt t 0x7FFC, wordAt t 0x7FFA, t.pc.off)) = some (some 0x1000, some 0x4000, some 0x0000, 0x0680) := by decide

theorem test_step_vi_148 : seen (step { machine .z8002 0x5800 [(15, 0x8000)] (statusArea ++ [(0xFFE, 0x8D07)]) with pc := ⟨0, 0x0FFE⟩, nspOff := 0xF000, psapOff := 0x4000, events := [⟨false,none,none,some 3,none⟩] })
    (fun t => (wordAt t 0x7FFE, wordAt t 0x7FFC, wordAt t 0x7FFA, t.pc.off, t.fcw.toWord)) = some (some 0x1000, some 0x5800, some 0x0003, 0x0780, 0x4000) := by decide

theorem test_step_vimask_149 : seen (step { machine .z8002 0x4800 [(15, 0x8000)] (statusArea ++ [(0xFFE, 0x8D07)]) with pc := ⟨0, 0x0FFE⟩, nspOff := 0xF000, psapOff := 0x4000, events := [⟨false,none,none,some 3,none⟩] })
    (fun t => (t.pc.off, t.fcw.toWord)) = some (0x1000, 0x4800) := by decide

theorem test_step_nvi_150 : seen (step { machine .z8002 0x4800 [(15, 0x8000)] (statusArea ++ [(0xFFE, 0x8D07)]) with pc := ⟨0, 0x0FFE⟩, nspOff := 0xF000, psapOff := 0x4000, events := [⟨false,none,none,none,some 0xaa⟩] })
    (fun t => (wordAt t 0x7FFA, t.pc.off)) = some (some 0x00AA, 0x06C0) := by decide

theorem test_step_eivi_151 : seen (step { machine .z8002 0x4000 [(15, 0x8000)] (statusArea ++ [(0x1000, 0x7C05)]) with nspOff := 0xF000, psapOff := 0x4000, events := [⟨false,none,none,some 2,none⟩] })
    (fun t => (wordAt t 0x7FFE, wordAt t 0x7FFC, wordAt t 0x7FFA, t.pc.off)) = some (some 0x1002, some 0x5000, some 0x0002, 0x0700) := by decide

theorem test_step_sc8001_152 : seen (step { machine .z8001 0x8000 [(14, 0x0200), (15, 0x8000)] [(0x4018, 0x0000), (0x401A, 0xC000), (0x401C, 0x0300), (0x401E, 0x0500), (0x11234, 0x7F12)] with pc := ⟨1, 0x1234⟩, psapOff := 0x4000 })
    (fun t => (wordAt t 0x027FFE, wordAt t 0x027FFC, wordAt t 0x027FFA, wordAt t 0x027FF8, t.regs[15], t.regs[14])) = some (some 0x1236, some 0x0100, some 0x8000, some 0x7F12, 0x7FF8, 0x0200) := by decide

theorem test_step_iret8001_153 : seen (step { machine .z8001 0xC000 [(14, 0x0200), (15, 0x7FF8)] [(0x27FF8, 0x7F12), (0x27FFA, 0x8000), (0x27FFC, 0x0100), (0x27FFE, 0x1236), (0x30500, 0x7B00)] with pc := ⟨3, 0x0500⟩ })
    (fun t => (t.fcw.toWord, t.pc.off, t.pc.seg, t.regs[15])) = some (0x8000, 0x1236, 1, 0x8000) := by decide

theorem test_step_reset_154 : seen (step { machine .z8002 0x4000 [] [(2, 0x4000), (4, 0x0100)] with resetReq := true })
    (fun t => (t.fcw.toWord, t.pc.off)) = some (0x4000, 0x0100) := by decide

theorem test_step_reset1_155 : seen (step { machine .z8001 0x4000 [] [(2, 0xC000), (4, 0x0100), (6, 0x0200)] with resetReq := true })
    (fun t => (t.fcw.toWord, t.pc.off, t.pc.seg)) = some (0xC000, 0x0200, 1) := by decide

/-! ## Witnesses: for every statement with hypotheses, a state and operands that meet them -/

/-- A Z8002 in system mode, with a stack, a status area, two memory operands and a NOP at the PC. -/
def sys2 : State :=
  { machine .z8002 0x4000 [(1, 0x2000), (2, 0x3000), (3, 2), (4, 0x0012), (5, 0x0034), (6, 1), (15, 0x8000)]
      (statusArea ++ [(0x1000, 0x8D07), (0x2000, 0x1234), (0x2002, 0x0608), (0x3000, 0x0009), (0x3002, 0x5678),
        (0x8000, 0x0011), (0x8002, 0x4000), (0x8004, 0x1000)]) with psapOff := 0x4000, nspOff := 0x6000 }

/-- The same in normal mode. -/
def usr2 : State := { sys2 with fcw := { sys2.fcw with sys := false } }

/-- A Z8001 in segmented system mode: operands in segment 1, the stack in segment 2. -/
def seg1 : State :=
  { machine .z8001 0xC000 [(2, 0x0100), (3, 0x3000), (4, 0x0100), (5, 0x2000), (6, 1), (7, 2), (14, 0x0200), (15, 0x8000)]
      [(0x1000, 0x8D07), (0x4012, 0xC000), (0x4014, 0x0300), (0x4016, 0x0600), (0x401A, 0xC000), (0x401C, 0x0300),
        (0x401E, 0x0500), (0x12000, 0x1234), (0x13000, 0x0009), (0x13002, 0xC000), (0x13004, 0x0300), (0x13006, 0x1000),
        (0x28000, 0x0011), (0x28002, 0xC000), (0x28004, 0x0300), (0x28006, 0x1000)] with psapOff := 0x4000 }

/-- The state with the reset transition due. -/
def due (v : Variant) : State :=
  { machine v 0x4000 [] [(0x0002, 0x4000), (0x0004, 0x0100), (0x0006, 0x0200)] with resetReq := true }

theorem sys2_inv : sys2.Inv :=
  ⟨by decide, by unfold State.memoryInRange; decide, .inr (by decide), fun _ => by decide⟩

theorem witness_DecodeOfEncodeIsTheInstruction : (Instr.ldl 4 (.mem (.da (.long 5 0x1234)))).wf true = true ∧
    (Instr.sral 4 32).wf false = true ∧ (Instr.bitbDyn 1 7).wf false = true := by decide

theorem witness_DecodedInstructionIsWellFormed : decodeWords false [0x2101, 0x1234, 0] = .ok (.ld 1 (.imm 0x1234)) [0] ∧
    decodeWords true [0x4D05, 0x8300, 2, 3, 4] = .ok (.ldStoreImm (.da (.long 3 2)) 3) [4] := by decide

theorem witness_ReservedWordsAreRejected : 0x7#4 ∉ [0x0#4, 0x8#4, 0x9#4, 0xA#4, 0xD#4] ∧
    0x2#4 ∉ [0x1#4, 0x8#4, 0x9#4] ∧ 0x1#4 ∉ [0x0#4, 0x7#4, 0xA#4] ∧ (7#4 ≠ 8 ∧ 1#4 ≠ 0 ∧ 0#4 ≠ 0xD) ∧
    ((1#4 ≠ 0 ∨ (0#4).getLsbD 3 = true) ∧ (0#4 ≠ 0#4 ∨ (8#4).getLsbD 3 = true)) := by decide

/-- A second word that breaks each clause: an odd sub-opcode, the high nibble, bits 7..4, and bits 3..0 neither 0, 8 nor 14. -/
theorem witness_MalformedSecondWordsAreRejected : (0x1#4).getLsbD 0 = true ∧ (0x1000#16).extractLsb' 12 4 ≠ 0 ∧
    (0x0010#16).extractLsb' 4 4 ≠ 0 ∧ (0x0010#16).extractLsb' 0 8 ≠ 0 ∧ (0x0001#16).extractLsb' 0 4 ≠ 0 ∧
    (0x0001#16).extractLsb' 0 4 ≠ 8 ∧ (0x0001#16).extractLsb' 0 4 ≠ 0xE ∧ (0x8#4).getLsbD 3 = true := by decide

theorem witness_RegisterViews : (7 : RegNo).toNat < 8 ∧ 8 ≤ (8 : RegNo).toNat := by decide

theorem witness_StepRunsTheDecodedInstruction : sys2.resetReq = false ∧ sys2.halted = false ∧ sys2.pc.odd = false ∧
    decode sys2.segmented sys2.fetchBytes = .ok .nop [] := by decide

theorem witness_StepRunsTheInstructionInMemory : sys2.resetReq = false ∧ sys2.halted = false ∧ sys2.pc.odd = false ∧
    Instr.nop.wf sys2.segmented = true ∧
    ∀ k (h : k < (encodeBytes .nop).length), sys2.readByte (sys2.pc.add (BitVec.ofNat 16 k)) = .next ((encodeBytes .nop)[k]) :=
  ⟨by decide, by decide, by decide, by decide, fun k h => next_of (by revert k; decide)⟩

/-- Halted with the VI enabled, the PC after the HALT being %1000, and one request presented; and the same with none. -/
def asleep (r : Request) : State := { sys2 with fcw := { sys2.fcw with vie := true }, halted := true, events := [r] }

def awake : State := { asleep .nothing with events := [], nmi := none }

theorem witness_StepsWithoutAnInstruction :
    (∃ s : State, s.resetReq = false ∧ s.halted = false ∧ s.pc.odd = true) ∧
    (∃ s : State, s.resetReq = false ∧ s.halted = false ∧ s.pc.odd = false ∧ decode s.segmented s.fetchBytes = .bad) ∧
    (∃ s : State, s.resetReq = false ∧ s.halted = true ∧ s.nmi = none ∧ s.request.reset = false ∧ s.request.nmi = none ∧
      (s.isZ8001 = true → s.request.segt = none) ∧ (s.request.vi ≠ none → s.fcw.vie = false) ∧
      (s.request.nvi ≠ none → s.fcw.nvie = false)) ∧
    ((asleep ⟨false, some 7, none, none, none⟩).resetReq = false ∧ (asleep ⟨false, some 7, none, none, none⟩).halted = true ∧
      (asleep ⟨false, some 7, none, none, none⟩).request.reset = false ∧
      (asleep ⟨false, some 7, none, none, none⟩).nmiLatch = some 7 ∧ awake.CanEnter .nmi 7 0x4000 ⟨0, 0x0680⟩) ∧
    ((asleep ⟨false, none, none, some 3, none⟩).request.vi = some 3 ∧ awake.fcw.vie = true ∧
      (asleep ⟨false, none, none, some 3, none⟩).nmiLatch = none ∧ awake.CanEnter .vi 3 0x4000 ⟨0, 0x0780⟩) :=
  ⟨⟨{ sys2 with pc := ⟨0, 0x1001⟩ }, by decide, by decide, by decide⟩,
    ⟨machine .z8002 0x4000 [] [(0x1000, 0x3600)], by decide, by decide, by decide, by decide⟩,
    ⟨{ sys2 with halted := true, events := [⟨false, none, some 1, some 2, some 3⟩] }, by decide, by decide, by decide,
      by decide, by decide, by decide, by decide, by decide⟩,
    ⟨by decide, by decide, by decide, by decide,
      by decide, by decide, next_of (by decide), next_of (by decide), by decide, by decide⟩,
    by decide, by decide, by decide, by decide, by decide, next_of (by decide), next_of (by decide), by decide, by decide⟩

/-- 49_cpu_control.md R303: an NMI, or an enabled VI, ends the halt; the saved PC is the one after HALT. -/
theorem test_halt_wakes :
    seen (step (asleep ⟨false, some 7, none, none, none⟩)) (fun t => (t.halted, t.pc.off, wordAt t 0x7FFE, wordAt t 0x7FFA)) =
      some (false, 0x0680, some 0x1000, some 7) ∧
    seen (step (asleep ⟨false, none, none, some 3, none⟩)) (fun t => (t.halted, t.pc.off, wordAt t 0x7FFE, wordAt t 0x7FFA)) =
      some (false, 0x0780, some 0x1000, some 3) := by decide

theorem witness_ResetTransition :
    ((due .z8002).resetReq = true ∧ (due .z8002).isZ8001 = false ∧ (due .z8002).readWord ⟨0, 2⟩ = .next 0x4000 ∧
      (due .z8002).readWord ⟨0, 4⟩ = .next 0x0100) ∧
    ((due .z8001).resetReq = true ∧ (due .z8001).isZ8001 = true ∧ (due .z8001).readWord ⟨0, 2⟩ = .next 0x4000 ∧
      (due .z8001).readWord ⟨0, 4⟩ = .next 0x0100 ∧ (due .z8001).readWord ⟨0, 6⟩ = .next 0x0200) :=
  ⟨⟨by decide, by decide, next_of (by decide), next_of (by decide)⟩,
    by decide, by decide, next_of (by decide), next_of (by decide), next_of (by decide)⟩

theorem witness_StepKeepsTheInvariant : sys2.Inv ∧ ∃ t, step sys2 = .next t := ⟨sys2_inv, answers (by decide)⟩

/-- One request at the coming boundary. -/
def asked (r : Request) : State := { sys2 with fcw := { sys2.fcw with vie := true, nvie := true }, events := [r] }

theorem witness_BoundaryAcceptsByPriority :
    (asked ⟨true, some 1, none, none, none⟩).request.reset = true ∧
    (asked ⟨false, some 1, none, some 2, none⟩).nmiLatch = some 1 ∧
    (({ seg1 with events := [⟨false, none, some 7, some 2, none⟩] } : State).isZ8001 = true ∧
      ({ seg1 with events := [⟨false, none, some 7, some 2, none⟩] } : State).request.segt = some 7 ∧
      ({ seg1 with events := [⟨false, none, some 7, some 2, none⟩] } : State).nmiLatch = none) ∧
    ((asked ⟨false, none, none, some 2, some 3⟩).request.vi = some 2 ∧
      enabled sys2.par (asked ⟨false, none, none, some 2, some 3⟩).fcw.vie true = true) ∧
    ((asked ⟨false, none, none, none, some 3⟩).request.nvi = some 3 ∧
      (asked ⟨false, none, none, none, some 3⟩).request.vi = none) ∧
    (asked ⟨false, none, none, none, none⟩).request.nvi = none := by decide

theorem usr2_enters : usr2.CanEnter .privileged 0x7A00 0x4000 ⟨0, 0x0600⟩ :=
  ⟨by decide, by decide, next_of (by decide), next_of (by decide), by decide, by decide⟩

/-- HALT, which the entry goes through for; and IN from a direct port, of two words, under each value of `TRAP_PC_RULE`. -/
theorem witness_PrivilegedInstructionsTrapInNormalMode :
    (isPrivileged .halt = true ∧ usr2.fcw.sys = false ∧ encode .halt = [0x7A00] ∧ usr2.par.trapPcRule = .firstWordPlusTwo ∧
      usr2.CanEnter .privileged 0x7A00 0x4000 ⟨0, 0x0600⟩) ∧
    (isPrivileged (.inp 1 (.direct 0x20)) = true ∧ encode (.inp 1 (.direct 0x20)) = 0x3B14 :: [0x0020] ∧
      ({ usr2 with par := { usr2.par with trapPcRule := .nextInstruction } } : State).par.trapPcRule = .nextInstruction) :=
  ⟨⟨by decide, by decide, by decide, by decide, usr2_enters⟩, by decide⟩

theorem witness_NormalModeKeepsTheControlState : usr2.fcw.sys = false ∧ usr2.traps (.add 1 (.reg 2)) = false ∧
    ∃ t, exec (.add 1 (.reg 2)) usr2 = .next t := ⟨by decide, by decide, answers (by decide)⟩

theorem witness_FlagsOutsideTheTableAreKept : sys2.traps (.inc (.mem (.ir 1)) 0) = false ∧
    loadsFcw (.inc (.mem (.ir 1)) 0) = false ∧ ∃ t, exec (.inc (.mem (.ir 1)) 0) sys2 = .next t :=
  ⟨by decide, by decide, answers (by decide)⟩

theorem witness_OtherRegistersAreKept :
    (sys2.traps (.push 15 (.reg 1)) = false ∧ loadsFcw (.push 15 (.reg 1)) = false ∧
      ∃ t, exec (.push 15 (.reg 1)) sys2 = .next t) ∧
    (sys2.traps (.ldps (.ir 1)) = false ∧ loadsFcw (.ldps (.ir 1)) = true ∧ ∃ t, exec (.ldps (.ir 1)) sys2 = .next t) ∧
    (sys2.traps .iret = false ∧ ∃ t, exec .iret sys2 = .next t) :=
  ⟨⟨by decide, by decide, answers (by decide)⟩, ⟨by decide, by decide, answers (by decide)⟩, by decide, answers (by decide)⟩

theorem witness_SpecialRegistersAreKept : sys2.traps .nop = false ∧ ∃ t, exec .nop sys2 = .next t :=
  ⟨by decide, answers (by decide)⟩

theorem witness_OtherMemoryIsKept : sys2.traps (.ldStore (.ir 1) 4) = false ∧
    sys2.stores (.ldStore (.ir 1) 4) = [⟨⟨0, 0x2000⟩, 2⟩] ∧ ∃ t, exec (.ldStore (.ir 1) 4) sys2 = .next t :=
  ⟨by decide, by decide, answers (by decide)⟩

theorem witness_StackPointerCopies : sys2.fcw.sys = true ∧ usr2.fcw.sys = false := by decide

theorem witness_MemoryReadAfterWrite : (∃ t, sys2.write .byte ⟨0, 0xFFFF⟩ (1#8) = .next t) ∧
    (∃ t, sys2.write .word ⟨0, 0xFFFE⟩ (1#16) = .next t) ∧ ∃ t, sys2.write .long ⟨0, 0xFFFE⟩ (1#32) = .next t :=
  ⟨answers (by decide), answers (by decide), answers (by decide)⟩

theorem witness_BadAccessesFault : Addr.odd ⟨0, 1⟩ = true ∧
    ({ sys2 with par := { sys2.par with admitted := [⟨0, 16⟩] } } : State).admits ⟨0, 16⟩ = false ∧
    (sys2.admits ⟨0, 0xFFFE⟩ = true ∧ sys2.mem.get (Addr.key ⟨0, 0xFFFE⟩) = none) ∧
    (0 < Width.bytes .byte ∧ Addr.add ⟨0, 0x1000⟩ (BitVec.ofNat 16 0) = sys2.pc) ∧
    (3 < Width.bytes .long ∧ Addr.add ⟨0, 0x0FFE⟩ (BitVec.ofNat 16 3) = sys2.pc.add 1) := by decide

theorem witness_AddressArithmetic : sys2.segmented = false ∧ seg1.segmented = true := by decide

theorem witness_PopAfterPush : Width.long ≠ .byte ∧ (∃ t, sys2.push .word 15 0x1234 = .next t) ∧
    ∃ t, seg1.push .long 14 0x12345678 = .next t := ⟨by decide, answers (by decide), answers (by decide)⟩

theorem sys2_calls : sys2.CanEnter .systemCall 0x7F12 0x4000 ⟨0, 0x0500⟩ :=
  ⟨by decide, by decide, next_of (by decide), next_of (by decide), by decide, by decide⟩

/-- 60_exceptions.md R347, at the ends of the vector range. -/
theorem test_vector_places : Entry.pcOffset .vi .z8002 0xFFFF = 540 ∧ Entry.pcOffset .vi .z8001 0xFF00 = 60 ∧
    (Entry.pcOffset .nmi .z8001 3 = 44) := by decide

theorem witness_EntrySequence : sys2.isZ8001 = false ∧ seg1.isZ8001 = true ∧ Entry.nvi ≠ .vi ∧ sys2.CanEnter .systemCall 0x7F12 0x4000 ⟨0, 0x0500⟩ ∧
    sys2.CanEnter .vi 3 0x4000 ⟨0, 0x0780⟩ ∧ seg1.CanEnter .systemCall 0x7F12 0xC000 ⟨3, 0x0500⟩ :=
  ⟨by decide, by decide, by decide, sys2_calls,
    ⟨by decide, by decide, next_of (by decide), next_of (by decide), by decide, by decide⟩,
    ⟨by decide, by decide, next_of (by decide), next_of (by decide), by decide, by decide⟩⟩

/-- A system call whose frame covers the word right after it. -/
def overNext : State := { sys2 with pc := ⟨0, 0x7FFA⟩ }

theorem witness_SystemCallAndExtendedInstruction :
    (sys2.CanEnter .systemCall (0x7F#8 ++ 0x12#8) 0x4000 ⟨0, 0x0500⟩ ∧ sys2.frameApart ∧ ¬overNext.frameApart) ∧
    (encode (.epa .x8F 0x12) = [0x8F12] ∧ sys2.fcw.epa = false ∧ sys2.CanEnter .extended 0x8F12 0x4000 ⟨0, 0x0580⟩) ∧
    (({ sys2 with fcw := { sys2.fcw with epa := true } } : State).fcw.epa = true ∧ sys2.par.epaPresent = false ∧
      ({ sys2.par with epaPresent := true } : Params).epaPresent = true) :=
  ⟨⟨sys2_calls, by unfold State.frameApart; decide, by unfold State.frameApart; decide⟩,
    ⟨by decide, by decide, by decide, by decide, next_of (by decide), next_of (by decide), by decide, by decide⟩, by decide⟩

/-- 20_memory.md R82: the system call that would push there stops, at either end of its frame; a word lower it runs. -/
theorem test_sc_over_next : exec (.sc 0x12) overNext = .fault .storeIntoNextWord ∧
    exec (.sc 0x12) { sys2 with pc := ⟨0, 0x7FFE⟩ } = .fault .storeIntoNextWord ∧
    seen (exec (.sc 0x12) { sys2 with pc := ⟨0, 0x7FF8⟩ }) (fun t => t.pc.off) = some 0x0500 :=
  ⟨rfl, rfl, by decide⟩

theorem witness_ProgramStatusLoads :
    (sys2.fcw.sys = true ∧ sys2.segmented = false ∧ sys2.readWord ((sys2.pointer 15).add 2) = .next 0x4000 ∧
      sys2.readWord ((sys2.pointer 15).add 4) = .next 0x1000 ∧ sys2.readWord (sys2.ea (.ir 1)) = .next 0x1234 ∧
      sys2.readWord ((sys2.ea (.ir 1)).add 2) = .next 0x0608) ∧
    (seg1.fcw.sys = true ∧ seg1.segmented = true ∧ seg1.readWord ((seg1.pointer 14).add 2) = .next 0xC000 ∧
      seg1.readWord ((seg1.pointer 14).add 4) = .next 0x0300 ∧ seg1.readWord ((seg1.pointer 14).add 6) = .next 0x1000 ∧
      seg1.readWord ((seg1.ea (.ir 2)).add 2) = .next 0xC000 ∧ seg1.readWord ((seg1.ea (.ir 2)).add 4) = .next 0x0300 ∧
      seg1.readWord ((seg1.ea (.ir 2)).add 6) = .next 0x1000) :=
  ⟨⟨by decide, by decide, next_of (by decide), next_of (by decide), next_of (by decide), next_of (by decide)⟩,
    by decide, by decide, next_of (by decide), next_of (by decide), next_of (by decide), next_of (by decide),
    next_of (by decide), next_of (by decide)⟩

theorem witness_InterruptReturnUndoesTheEntry :
    (sys2.fcwLegal ∧ (sys2.isZ8001 = false → sys2.pc.seg = sys2.pc.seg) ∧ ∃ t, enter .systemCall 0x7F12 sys2.pc sys2 = .next t ∧
      t.fcw.sys = true ∧ (sys2.isZ8001 = true → t.fcw.seg = true)) ∧
    (seg1.fcwLegal ∧ ∃ t, enter .systemCall 0x7F12 seg1.pc seg1 = .next t ∧ t.fcw.sys = true ∧
      (seg1.isZ8001 = true → t.fcw.seg = true)) := by
  refine ⟨⟨fun _ => by decide, fun _ => rfl, ?_⟩, fun _ => by decide, ?_⟩
  · obtain ⟨t, h⟩ := answers (r := enter .systemCall 0x7F12 sys2.pc sys2) (by decide)
    have hs : seen (enter .systemCall 0x7F12 sys2.pc sys2) (fun t => (t.fcw.sys, t.fcw.seg)) = some (true, false) := by decide
    simp only [h, seen, Option.some.injEq, Prod.mk.injEq] at hs
    exact ⟨t, h, hs.1, fun e => absurd e (by decide)⟩
  · obtain ⟨t, h⟩ := answers (r := enter .systemCall 0x7F12 seg1.pc seg1) (by decide)
    have hs : seen (enter .systemCall 0x7F12 seg1.pc seg1) (fun t => (t.fcw.sys, t.fcw.seg)) = some (true, true) := by decide
    simp only [h, seen, Option.some.injEq, Prod.mk.injEq] at hs
    exact ⟨t, h, hs.1, fun _ => hs.2⟩

theorem witness_LoadsPutTheOperandInTheRegister :
    sys2.readSrc (.mem (.ir 1) : Src .byte) = .next 0x12#8 ∧ sys2.readSrc (.mem (.x (.near 0x2000) 3) : Src .word) = .next 0x0608#16 ∧
    sys2.readSrc (.mem (.da (.near 0x2000)) : Src .long) = .next 0x12340608#32 ∧
    sys2.readByte (sys2.eaBased (.ba 1 1)) = .next 0x34 ∧ sys2.readWord (sys2.eaBased (.bx 1 3)) = .next 0x0608 ∧
    sys2.readLong (sys2.eaBased (.ba 1 0)) = .next 0x12340608 ∧ sys2.readByte (sys2.pc.add 0x1000) = .next 0x12 ∧
    sys2.readWord (sys2.pc.add 0x1000) = .next 0x1234 ∧ sys2.readLong (sys2.pc.add 0x1000) = .next 0x12340608 :=
  ⟨next_of (by decide), next_of (by decide), next_of (by decide), next_of (by decide), next_of (by decide),
    next_of (by decide), next_of (by decide), next_of (by decide), next_of (by decide)⟩

/-- A store of each width at an even address goes through. -/
theorem sys2_stores : sys2.CanStore .byte ⟨0, 0x2000⟩ ∧ sys2.CanStore .word ⟨0, 0x2000⟩ ∧ sys2.CanStore .long ⟨0, 0x2000⟩ :=
  ⟨⟨by decide, by decide, by decide⟩, ⟨by decide, by decide, by decide⟩, ⟨by decide, by decide, by decide⟩⟩

theorem witness_StoresPutTheOperandInMemory : sys2.CanStore .byte (sys2.ea (.ir 1)) ∧ sys2.CanStore .word (sys2.ea (.ir 1)) ∧
    sys2.CanStore .long (sys2.ea (.ir 1)) ∧ sys2.CanStore .long (sys2.eaBased (.ba 1 0)) ∧
    sys2.CanStore .word (sys2.pc.add 0x1000) ∧ sys2.CanStore .byte (sys2.pc.add 0x1000) :=
  ⟨sys2_stores.1, sys2_stores.2.1, sys2_stores.2.2, ⟨by decide, by decide, by decide⟩, sys2_stores.2.1, sys2_stores.1⟩

theorem witness_ClearAndExchange : sys2.CanWrite .byte (.mem (.ir 1)) ∧ sys2.CanWrite .word (.mem (.ir 1)) ∧
    sys2.readDst .byte (.mem (.ir 1)) = .next 0x12#8 ∧ sys2.readDst .word (.mem (.ir 1)) = .next 0x1234#16 :=
  ⟨sys2_stores.1, sys2_stores.2.1, next_of (by decide), next_of (by decide)⟩

theorem witness_AddressLoads : (∃ f, Instr.lda 2 (.near 4) = .lda 2 f ∧ sys2.near 4 = sys2.fieldAddr f) ∧
    (∃ x, Instr.ldar 2 x = .ldar 2 4 ∧ seg1.pc.add 4 = seg1.pc.add x) ∧ sys2.segmented = false ∧ seg1.segmented = true :=
  ⟨⟨_, rfl, rfl⟩, ⟨_, rfl, rfl⟩, by decide, by decide⟩

theorem witness_LoadMultiple : (∃ k ∈ sys2.memRegs (.ir 1), (k - 15).toNat ≤ (15 : BitVec 4).toNat) ∧
    ((∀ k ∈ sys2.memRegs (.ir 1), (1 : BitVec 4).toNat < (k - 14).toNat) ∧
      ∀ j ≤ (1 : BitVec 4).toNat, ∃ w, sys2.readWord ((sys2.ea (.ir 1)).add (BitVec.ofNat 16 (2 * j))) = .next w) ∧
    ∀ j ≤ (15 : BitVec 4).toNat, sys2.CanStore .word ((sys2.ea (.ir 1)).add (BitVec.ofNat 16 (2 * j))) := by
  refine ⟨by decide, ⟨by decide, fun j hj => answers ?_⟩, fun j hj => ⟨.inr ?_, ?_, ?_⟩⟩
  all_goals revert j; decide

theorem witness_PopAndPush : sys2.read .word (sys2.pointer 15) = .next 0x0011#16 ∧
    sys2.read .long (sys2.pointer 15) = .next 0x00114000#32 ∧
    (∀ k ∈ dstRegs .word (.reg 14), k ∉ sys2.pointerRegs 15) ∧ (∀ k ∈ dstRegs .long (.reg 4), k ∉ sys2.pointerRegs 15) ∧
    sys2.CanWrite .long (.mem (.ir 1)) ∧ sys2.readSrc (.imm 5 : Src .word) = .next 5#16 ∧
    sys2.readDst .long (.reg 4) = .next 0x00120034#32 ∧
    sys2.CanStore .word ((sys2.pointer 15).add (-(BitVec.ofNat 16 (Width.bytes .word)))) ∧
    sys2.CanStore .long ((sys2.pointer 15).add (-(BitVec.ofNat 16 (Width.bytes .long)))) ∧
    (15 : RegNo) ∈ sys2.pointerRegs 15 ∧ (14 + 1 : RegNo) ∈ sys2.pointerRegs 15 :=
  ⟨next_of (by decide), next_of (by decide), by decide, by decide, sys2_stores.2.2, next_of (by decide), next_of (by decide),
    ⟨by decide, by decide, by decide⟩, ⟨by decide, by decide, by decide⟩, by decide, by decide⟩

/-- A source operand of each width is readable: AdditionsAndSubtractions, Comparisons, Multiplication, Logical. -/
theorem witness_Sources : sys2.readSrc (.mem (.ir 1) : Src .byte) = .next 0x12#8 ∧
    sys2.readSrc (.mem (.ir 1) : Src .word) = .next 0x1234#16 ∧ sys2.readSrc (.mem (.ir 1) : Src .long) = .next 0x12340608#32 ∧
    sys2.readByte (sys2.ea (.ir 1)) = .next 0x12 ∧ sys2.readWord (sys2.ea (.ir 1)) = .next 0x1234 :=
  ⟨next_of (by decide), next_of (by decide), next_of (by decide), next_of (by decide), next_of (by decide)⟩

/-- A register or memory operand of each width is readable and writable: IncrementDecrementNegate, Logical, Bits. -/
theorem witness_Operands : sys2.readDst .byte (.mem (.ir 1)) = .next 0x12#8 ∧ sys2.readDst .word (.mem (.ir 1)) = .next 0x1234#16 ∧
    sys2.readDst .long (.mem (.ir 1)) = .next 0x12340608#32 ∧ sys2.CanWrite .byte (.mem (.ir 1)) ∧
    sys2.CanWrite .word (.mem (.ir 1)) ∧ condHolds sys2.fcw .t = true ∧ condHolds sys2.fcw .f = false :=
  ⟨next_of (by decide), next_of (by decide), next_of (by decide), sys2_stores.1, sys2_stores.2.1, by decide, by decide⟩

theorem witness_AdditionsAndSubtractions : sys2.readSrc (.mem (.ir 1) : Src .byte) = .next 0x12#8 ∧
    sys2.readSrc (.mem (.ir 1) : Src .word) = .next 0x1234#16 ∧ sys2.readSrc (.mem (.ir 1) : Src .long) = .next 0x12340608#32 :=
  ⟨witness_Sources.1, witness_Sources.2.1, witness_Sources.2.2.1⟩

theorem witness_Comparisons : sys2.readSrc (.mem (.ir 1) : Src .long) = .next 0x12340608#32 ∧
    sys2.readByte (sys2.ea (.ir 1)) = .next 0x12 ∧ sys2.readWord (sys2.ea (.ir 1)) = .next 0x1234 :=
  witness_Sources.2.2

theorem witness_Multiplication : sys2.readSrc (.mem (.ir 1) : Src .word) = .next 0x1234#16 ∧
    sys2.readSrc (.mem (.ir 1) : Src .long) = .next 0x12340608#32 := ⟨witness_Sources.2.1, witness_Sources.2.2.1⟩

theorem witness_IncrementDecrementNegate : sys2.readDst .byte (.mem (.ir 1)) = .next 0x12#8 ∧
    sys2.CanWrite .byte (.mem (.ir 1)) ∧ sys2.readDst .word (.mem (.ir 1)) = .next 0x1234#16 ∧
    sys2.CanWrite .word (.mem (.ir 1)) :=
  ⟨witness_Operands.1, witness_Operands.2.2.2.1, witness_Operands.2.1, witness_Operands.2.2.2.2.1⟩

theorem witness_Logical : sys2.readSrc (.mem (.ir 1) : Src .word) = .next 0x1234#16 ∧
    sys2.readDst .long (.mem (.ir 1)) = .next 0x12340608#32 ∧ sys2.readDst .word (.mem (.ir 1)) = .next 0x1234#16 ∧
    sys2.CanWrite .word (.mem (.ir 1)) :=
  ⟨witness_Sources.2.1, witness_Operands.2.2.1, witness_Operands.2.1, witness_Operands.2.2.2.2.1⟩

theorem witness_Bits : sys2.readDst .byte (.mem (.ir 1)) = .next 0x12#8 ∧ sys2.CanWrite .byte (.mem (.ir 1)) ∧
    condHolds sys2.fcw .t = true ∧ condHolds sys2.fcw .f = false :=
  ⟨witness_Operands.1, witness_Operands.2.2.2.1, witness_Operands.2.2.2.2.2⟩

/-- RH1 holds the sum or difference of two BCD bytes, with the flags of that operation. -/
def decimal (v : Byte) (f : Fcw) : State := { sys2.setByteReg 1 v with fcw := f }

theorem witness_DecimalAdjust : isBcd 0x99 ∧ isBcd 0x01 ∧
    ((decimal 0x9B (sys2.fcw.sumOf .byte 0x99#8 0x01#8 true)).byteReg 1 = 0x99 + 0x01 + BitVec.ofNat 8 true.toNat ∧
      (decimal 0x9B (sys2.fcw.sumOf .byte 0x99#8 0x01#8 true)).fcw = sys2.fcw.sumOf .byte 0x99#8 0x01#8 true) ∧
    ((decimal 0x68 (sys2.fcw.differenceOf .byte 0x01#8 0x99#8 false)).byteReg 1 = 0x01 - 0x99 - BitVec.ofNat 8 false.toNat ∧
      (decimal 0x68 (sys2.fcw.differenceOf .byte 0x01#8 0x99#8 false)).fcw = sys2.fcw.differenceOf .byte 0x01#8 0x99#8 false) := by
  unfold isBcd; decide

theorem witness_Division : sys2.readSrc (.imm 0 : Src .word) = .next 0#16 ∧
    (sys2.readSrc (.imm 0xFFFE : Src .word) = .next 0xFFFE#16 ∧ sys2.longReg 6 = 0x00010000 ∧
      IsQuotient (sys2.longReg 6).toInt (BitVec.toInt 0xFFFE#16) (-32768) 0 ∧ tooLong 17 (-32768) = false) ∧
    (IsQuotient (sys2.longReg 6).toInt (BitVec.toInt 1#16) 65536 0 ∧ tooLong 17 65536 = true) ∧
    (IsQuotient (sys2.quadReg 4).toInt (BitVec.toInt 0x7FFFFFFF#32) 2359400 2424936 ∧ tooLong 33 2359400 = false) :=
  ⟨next_of (by decide), ⟨next_of (by decide), by decide, ⟨by decide, by decide, by decide, .inl rfl⟩, by decide⟩,
    ⟨⟨by decide, by decide, by decide, .inl rfl⟩, by decide⟩, ⟨by decide, by decide, by decide, .inr (by decide)⟩, by decide⟩

theorem witness_CallsAndReturns :
    (sys2.segmented = false ∧ sys2.CanStore .word ((sys2.pointer 15).add (-2)) ∧ condHolds sys2.fcw .t = true ∧
      condHolds sys2.fcw .f = false ∧ sys2.readWord (sys2.pointer 15) = .next 0x0011) ∧
    (seg1.segmented = true ∧ seg1.CanStore .long ((seg1.pointer 14).add (-4)) ∧ condHolds seg1.fcw .t = true ∧
      seg1.readWord (seg1.pointer 14) = .next 0x0011 ∧ seg1.readWord ((seg1.pointer 14).add 2) = .next 0xC000) :=
  ⟨⟨by decide, ⟨by decide, by decide, by decide⟩, by decide, by decide, next_of (by decide)⟩,
    by decide, ⟨by decide, by decide, by decide⟩, by decide, next_of (by decide), next_of (by decide)⟩

theorem witness_ReturnUndoesCall : (∃ m, Instr.call (.ir 1) = .call m) ∧ (Instr.call (.ir 1)).wf sys2.segmented = true ∧
    (∃ t, exec (.call (.ir 1)) sys2 = .next t) ∧ ∃ t, exec (.calr 5) seg1 = .next t :=
  ⟨⟨_, rfl⟩, by decide, answers (by decide), answers (by decide)⟩

theorem witness_Jumps : sys2.reg 6 = 1 ∧ sys2.reg 1 ≠ 1 ∧ ({ sys2.setByteReg 1 1 with free := 0 }).byteReg 1 = 1 ∧
    sys2.byteReg 1 ≠ 1 := by decide

theorem witness_Rotates : ∃ (b : Byte) (w : Word) (xb : BitVec 9) (xw : BitVec 17), b = sys2.byteReg 1 ∧ w = sys2.reg 1 ∧
    xb = BitVec.ofBool sys2.fcw.c ++ b ∧ xw = BitVec.ofBool sys2.fcw.c ++ w := ⟨_, _, _, _, rfl, rfl, rfl, rfl⟩

theorem witness_DigitRotates : (1 : RegNo) ≠ 2 ∧ ∃ t, exec (.rldb 1 9) sys2 = .next t ∧ ∃ u, exec (.rrdb 1 9) t = .next u := by
  refine ⟨by decide, _, rfl, _, rfl⟩

theorem witness_StaticShifts : 0 ≤ 8 ∧ (1 ≤ 16 ∧ 16 ≤ 16) ∧ (1 ≤ 32 ∧ 32 ≤ 32) := by decide

theorem witness_DynamicShifts : (0 ≤ Width.bits .byte ∧ (sys2.reg 0).toInt = 0) ∧
    (16 ≤ Width.bits .word ∧ ((sys2.setReg 0 16).reg 0).toInt = 16) ∧
    (1 ≤ 32 ∧ 32 ≤ Width.bits .long ∧ ((sys2.setReg 0 0xFFE0).reg 0).toInt = -32) := by decide

theorem witness_BlockCompares : ¬(comparedReg .byte 9 :: 1 :: sys2.pointerRegs 2).Nodup ∧
    (comparedReg .byte 8 :: 3 :: sys2.pointerRegs 2).Nodup ∧ sys2.read .byte (sys2.pointer 2) = .next 0#8 ∧
    ¬(2 :: sys2.pointerRegs 1 ++ sys2.pointerRegs 2).Nodup ∧ (3 :: sys2.pointerRegs 1 ++ sys2.pointerRegs 2).Nodup ∧
    sys2.read .word (sys2.pointer 1) = .next 0x1234#16 ∧ sys2.read .word (sys2.pointer 2) = .next 9#16 :=
  ⟨by decide, by decide, next_of (by decide), by decide, by decide, next_of (by decide), next_of (by decide)⟩

theorem witness_BlockMove : ¬(5 :: seg1.pointerRegs 4 ++ seg1.pointerRegs 2).Nodup ∧
    (7 :: seg1.pointerRegs 4 ++ seg1.pointerRegs 2).Nodup ∧ seg1.read .word (seg1.pointer 2) = .next 9#16 ∧
    seg1.CanStore .word (seg1.pointer 4) :=
  ⟨by decide, by decide, next_of (by decide), ⟨by decide, by decide, by decide⟩⟩

theorem witness_Translate : ¬sys2.TranslateApart 2 1 3 ∧ sys2.TranslateApart 2 7 3 ∧
    sys2.readByte (sys2.pointer 2) = .next 0 ∧ ({ sys2.setReg 7 0x2000 with free := 0 }).TranslateApart 2 7 3 ∧
    ({ sys2.setReg 7 0x2000 with free := 0 }).readByte ((({ sys2.setReg 7 0x2000 with free := 0 }).pointer 7).add (0#8 ++ 0#8)) =
      .next 0x12 ∧
    ({ sys2.setReg 7 0x2000 with free := 0 }).CanStore .byte (({ sys2.setReg 7 0x2000 with free := 0 }).pointer 2) := by
  unfold State.TranslateApart
  exact ⟨by decide, by decide, next_of (by decide), by decide, next_of (by decide), ⟨by decide, by decide, by decide⟩⟩

theorem witness_SingleTransfers : sys2.fcw.sys = true ∧ (∀ p, Port.ind 1 = .ind p → 0x2000 = sys2.reg p) ∧
    (∀ w, Port.ind 1 = .direct w → 0x2000 = w) ∧ (∀ w, Port.direct 5 = .direct w → (5 : Word) = w) ∧
    ({ sys2 with ioIn := [1, 2] } : State).ioIn = 1 :: [2] ∧ sys2.ioIn = [] :=
  ⟨by decide, fun p h => by cases h; decide, fun w h => (by cases h), fun w h => by cases h; rfl, by decide, by decide⟩

theorem witness_BlockTransfers : sys2.fcw.sys = true ∧ ¬(1 :: 3 :: sys2.pointerRegs 1).Nodup ∧
    (3 :: 5 :: sys2.pointerRegs 1).Nodup ∧ sys2.CanStore .word (sys2.pointer 1) ∧ sys2.CanStore .byte (sys2.pointer 1) ∧
    sys2.read .byte (sys2.pointer 1) = .next 0x12#8 ∧ sys2.read .word (sys2.pointer 1) = .next 0x1234#16 :=
  ⟨by decide, by decide, by decide, sys2_stores.2.1, sys2_stores.1, next_of (by decide), next_of (by decide)⟩

theorem witness_FlagsEnablesAndPins : sys2.fcw.sys = true ∧ seg1.fcw.sys = true := by decide

theorem witness_ControlRegisters : (seg1.fcw.sys = true ∧ seg1.isZ8001 = true) ∧
    (sys2.fcw.sys = true ∧ sys2.isZ8001 = false ∧ CtlReg.nspSeg = .nspSeg) ∧ (sys2.psapOff &&& 0x00FF = 0 ∧ seg1.psapSeg &&& 0x80FF = 0) ∧
    sys2.par.fcwReserved = .readsBackZero ∧
    ({ sys2.par with fcwReserved := .readsBackWritten } : Params).fcwReserved = .readsBackWritten ∧
    (sys2.par.variant = .z8002 ∧ seg1.par.variant = .z8001) := by decide

/-- 10_state.md R30: one bit at a time. -/
theorem test_fcw_layout : (Fcw.ofWord seg1.par 0x8000).seg = true ∧ (Fcw.ofWord sys2.par 0x8000).seg = false ∧
    (Fcw.ofWord sys2.par 0x2000).epa = true ∧ (Fcw.ofWord sys2.par 0x1000).vie = true ∧
    (Fcw.ofWord sys2.par 0x0800).nvie = true ∧ (Fcw.ofWord sys2.par 0x0008).da = true ∧
    (Fcw.ofWord sys2.par 0x0004).h = true := by decide

/-- 30_encoding.md R133, 00_scope.md R8: with FCW.EPA = 1 the verdict depends on `EPA_PRESENT`. -/
theorem test_extended_unit :
    exec (.epa .x0E 0) { sys2 with fcw := { sys2.fcw with epa := true } } = .refused .extendedInstruction ∧
    exec (.epa .x0E 0) { sys2 with fcw := { sys2.fcw with epa := true }, par := { sys2.par with epaPresent := true } } =
      .refused .extendedUnit := ⟨rfl, rfl⟩

theorem witness_MultiMicro : sys2.fcw.sys = true ∧ sys2.miIn = [] ∧
    ({ sys2 with miIn := [.low, .high] } : State).miIn = .low :: [.high] ∧
    ({ sys2 with miIn := [.high, .low] } : State).miIn = .high :: .low :: [] ∧
    ({ sys2 with miIn := [.high] } : State).miIn = [.high] := by decide


end Sys2Proof.Tests
end

section
/-! SUPPORT. The encoder against the decoder, instruction by instruction: one lemma per shape of encoding, and from them that every
well-formed instruction is read back from its at most five words (30_encoding.md R90 to R92, R120 to R124). -/

namespace Sys2Proof

/-- The words `ws` are at most the five of R90, and the decoder reads `i` from them whatever follows. -/
structure ReadBack (seg : Bool) (i : Instr) (ws : List Word) : Prop where
  length_le : ws.length ≤ 5
  decodes (rest : List Word) : decodeWords seg (ws ++ rest) = .ok i rest

/-! ## Lengths of operands -/

theorem AddrField.length_words_le (a : AddrField) : a.words.length ≤ 2 := by
  cases a <;> simp [AddrField.words]

theorem Mem.length_words_le (m : Mem) : m.words.length ≤ 2 := by
  cases m with
  | ir p => simp [Mem.words]
  | da a => exact a.length_words_le
  | x a i => exact a.length_words_le

theorem Dst.length_words_le (d : Dst) : d.words.length ≤ 2 := by
  cases d with
  | reg k => simp [Dst.words]
  | mem m => exact m.length_words_le

theorem length_immWords_le {W : Width} (v : BitVec W.bits) : (immWords v).length ≤ 2 := by
  cases W <;> simp [immWords]

theorem Src.length_words_le {W : Width} (s : Src W) : s.words.length ≤ 2 := by
  cases s with
  | reg k => simp [Src.words]
  | imm v => exact length_immWords_le v
  | mem m => exact m.length_words_le

/-! ## Words of one format -/

section Shapes

variable {seg : Bool} {i : Instr} {m : BitVec 2} {op : BitVec 6} {a b r d t : BitVec 4}

/-- A first word that is not compact, and at most four later words (R91). -/
theorem readBack_firstWord {ws : List Word} (hm : m ≠ 3#2) (hi : i.wf seg = true) (hlen : ws.length ≤ 4)
    (hp : ∀ rest, parse seg m op a b (ws ++ rest) = .ok i rest) : ReadBack seg i (firstWord m op a b :: ws) where
  length_le := Nat.succ_le_succ hlen
  decodes rest := by simp [decodeWords_firstWord seg hm, hp, hi]

/-- One word that is not compact. -/
theorem readBack_oneWord (hi : i.wf seg = true) (hp : ∀ rest, parse seg m op a b rest = .ok i rest := by intros; rfl)
    (hm : m ≠ 3#2 := by decide) : ReadBack seg i [firstWord m op a b] :=
  readBack_firstWord hm hi (Nat.zero_le 4) hp

/-- A first word and one later word. -/
theorem readBack_twoWords {w : Word} (hi : i.wf seg = true)
    (hp : ∀ rest, parse seg m op a b (w :: rest) = .ok i rest := by intros; rfl) (hm : m ≠ 3#2 := by decide) :
    ReadBack seg i [firstWord m op a b, w] :=
  readBack_firstWord hm hi (by decide : 1 ≤ 4) hp

/-- A compact word (R91, R120). -/
theorem readBack_compactWord {k : BitVec 2} {f : BitVec 4} {v : BitVec 8} (hi : i.wf seg = true)
    (hp : ∀ rest, parseCompact (compactWord k f v) rest = .ok i rest) : ReadBack seg i [compactWord k f v] where
  length_le := by simp
  decodes rest := by simp [decodeWords_compactWord, hp, hi]

/-- A second opcode word (R121 to R124): `k` is what the group does with its three fields. -/
theorem readBack_secondWord {k : BitVec 4 × BitVec 4 × BitVec 4 → List Word → Parse Instr} (hi : i.wf seg = true)
    (hp : ∀ ws, parse seg m op a b ws = (parseSecond ws).andThen k) (hk : ∀ rest, k (r, d, t) rest = .ok i rest)
    (hm : m ≠ 3#2 := by decide) : ReadBack seg i [firstWord m op a b, secondWord r d t] :=
  readBack_twoWords hi (fun rest => by simp [hp, hk]) hm

/-- A compare of the string group: the last field of the second word is a condition code (R122). -/
theorem readBack_compare {cc : Cond} (f : Cond → Instr) {k : BitVec 4 × BitVec 4 × BitVec 4 → List Word → Parse Instr}
    (hi : (f cc).wf seg = true) (hp : ∀ ws, parse seg 2 op a b ws = (parseSecond ws).andThen k)
    (hk : ∀ c rest, k (r, d, c) rest = .ok (f (.ofCode c)) rest) : ReadBack seg (f cc) (encReg2 op a b r d cc.code) :=
  readBack_secondWord hi hp fun rest => by rw [hk, ofCode_code]

/-- A second opcode word that holds one register (R124, R100 for BX). -/
theorem readBack_oneReg (f : RegNo → Instr) (hi : (f r).wf seg = true)
    (hp : ∀ ws, parse seg m op a b ws = (parseOneReg ws).map f := by intros; rfl) (hm : m ≠ 3#2 := by decide) :
    ReadBack seg (f r) [firstWord m op a b, secondWord r 0 0] :=
  readBack_twoWords hi (fun rest => by rw [hp]; exact congrArg (·.map f) (parseOneReg_secondWord r rest)) hm

/-! ## Words with an operand -/

/-- "src: R, IM, IR, DA, X" (R92). -/
theorem readBack_encSrc {W : Width} {src : Src W} (f : Src W → Instr) (hsrc : src.wf seg = true)
    (hi : (f src).wf seg = true)
    (hp : ∀ m a ws, parse seg m op a d ws = (parseSrc seg W m a ws).map f := by intros; rfl) :
    ReadBack seg (f src) (encSrc op d src) :=
  readBack_firstWord src.mode_ne_three hi (src.length_words_le.trans (by decide)) fun rest => by
    rw [hp, parseSrc_words hsrc, Parse.map_ok]

/-- "dst: R, IR, DA, X" (R92); in the bit instructions IR with field A = 0 is another format (R96). -/
theorem readBack_encDst {W : Width} {dst : Dst} (f : Dst → Instr) (hdst : dst.wf seg W = true)
    (hi : (f dst).wf seg = true)
    (hp : ∀ m a ws, ¬(m = 0 ∧ a = 0) → parse seg m op a b ws = (parseDst seg m a ws).map f := by intros; rfl) :
    ReadBack seg (f dst) (encDst op dst b) := by
  have hfield : ¬(dst.mode = 0 ∧ dst.field = 0) := by
    cases dst with
    | reg k => exact fun h => absurd h.1 (by simp [Dst.mode])
    | mem m => exact Mem.field_ne hdst
  exact readBack_firstWord dst.mode_ne_three hi (dst.length_words_le.trans (by decide)) fun rest => by
    rw [hp _ _ _ hfield, parseDst_words hdst, Parse.map_ok]

/-- A register or memory operand whose register is in field B: the stack instructions (R92). -/
theorem readBack_dstInFieldB {W : Width} {dst : Dst} (f : Dst → Instr) (hdst : dst.wf seg W = true)
    (hi : (f dst).wf seg = true)
    (hp : ∀ m b ws, parse seg m op a b ws = (parseDst seg m b ws).map f := by intros; rfl) :
    ReadBack seg (f dst) (firstWord dst.mode op a dst.field :: dst.words) :=
  readBack_firstWord dst.mode_ne_three hi (dst.length_words_le.trans (by decide)) fun rest => by
    rw [hp, parseDst_words hdst, Parse.map_ok]

/-- "dst: IR, DA, X" (R92); M = 2 may be another instruction. -/
theorem readBack_encMem {mem : Mem} (f : Mem → Instr) (hmem : mem.wf seg = true) (hi : (f mem).wf seg = true)
    (hp : ∀ m a ws, m ≠ 2 → parse seg m op a b ws = (parseMem seg m a ws).map f := by intros; rfl) :
    ReadBack seg (f mem) (encMem op mem b) :=
  readBack_firstWord mem.mode_ne_three hi (mem.length_words_le.trans (by decide)) fun rest => by
    rw [hp _ _ _ mem.mode_ne_two, parseMem_words hmem, Parse.map_ok]

/-- A memory operand, and immediate data after its words (R92, R95). -/
theorem readBack_encMemImm {W : Width} {mem : Mem} {v : BitVec W.bits} (f : Mem → BitVec W.bits → Instr)
    (hmem : mem.wf seg = true) (hi : (f mem v).wf seg = true)
    (hp : ∀ m a ws, m ≠ 2 → parse seg m op a b ws =
      (parseMem seg m a ws).andThen fun dst ws => (parseImm W ws).map (f dst)) :
    ReadBack seg (f mem v) (encMem op mem b ++ immWords v) := by
  have hlen : (mem.words ++ immWords v).length ≤ 4 := by
    have h1 := mem.length_words_le
    have h2 := length_immWords_le v
    rw [List.length_append]
    omega
  refine readBack_firstWord (ws := mem.words ++ immWords v) mem.mode_ne_three hi hlen fun rest => ?_
  rw [hp _ _ _ mem.mode_ne_two, List.append_assoc, parseMem_words hmem, Parse.andThen_ok, parseImm_words,
    Parse.map_ok]

/-- A memory operand after the second opcode word `0000 rrrr 0000 tttt`: LDM (R120). -/
theorem readBack_ldm {mem : Mem} (f : Mem → Instr) (hmem : mem.wf seg = true) (hi : (f mem).wf seg = true)
    {k : BitVec 2 → BitVec 4 → BitVec 4 × BitVec 4 × BitVec 4 → List Word → Parse Instr}
    (hp : ∀ m a ws, m ≠ 2 → parse seg m op a b ws = (parseSecond ws).andThen (k m a))
    (hk : ∀ m a ws, k m a (r, 0, t) ws = (parseMem seg m a ws).map f) :
    ReadBack seg (f mem) (firstWord mem.mode op mem.field b :: secondWord r 0 t :: mem.words) := by
  refine readBack_firstWord mem.mode_ne_three hi (Nat.succ_le_succ (mem.length_words_le.trans (by decide))) fun rest => ?_
  rw [hp _ _ _ mem.mode_ne_two, List.cons_append, parseSecond_secondWord, Parse.andThen_ok, hk, parseMem_words hmem,
    Parse.map_ok]

/-- BA and BX (R91, R120); M = 2 is another instruction, and BA with field A = 0 is RA. -/
theorem readBack_encBased {src : Based} (f : Based → Instr) {rel : Word → Instr} (hsrc : src.wf seg = true)
    (hi : (f src).wf seg = true)
    (hp : ∀ m a ws, m ≠ 2 → parse seg m op a b ws = parseBased f rel m a ws) :
    ReadBack seg (f src) (encBased op src b) := by
  have hlen : (encBased op src b).length ≤ 5 := by cases src <;> simp [encBased]
  refine ⟨hlen, fun rest => ?_⟩
  obtain ⟨m, a, ws, henc, hm, hws⟩ := parseBased_words hsrc f rel op b rest
  have hm2 : m ≠ 2 := by rcases hm with rfl | rfl <;> decide
  have hm3 : m ≠ 3#2 := by rcases hm with rfl | rfl <;> decide
  rw [henc, List.cons_append, decodeWords_firstWord seg hm3, hp _ _ _ hm2, hws, Parse.andThen_ok, if_pos hi]

/-- LDA in the forms DA and X: an address, field A being the index or 0 (R144). -/
theorem readBack_addr {addr : AddrField} (f : AddrField → Instr) (haddr : addr.wf seg = true)
    (hi : (f addr).wf seg = true) (hp : ∀ ws, parse seg 1 op a b ws = (parseAddr seg ws).map f) :
    ReadBack seg (f addr) (firstWord 1 op a b :: addr.words) :=
  readBack_firstWord (by decide) hi (addr.length_words_le.trans (by decide)) fun rest => by
    rw [hp, parseAddr_words haddr, Parse.map_ok]

/-! ## Bit instructions (R96, R120) -/

theorem msb_bitNumber (n : BitVec 3) : (0#1 ++ n).msb = false := by
  revert n; decide

/-- The static byte form: the bit number is the low three bits of field B. -/
theorem readBack_bitB {dst : Dst} {n : BitVec 3} {stat : Dst → BitVec 3 → Instr} {dyn : RegNo → RegNo → Instr}
    (hdst : dst.wf seg .byte = true) (hi : (stat dst n).wf seg = true)
    (hp : ∀ m a b ws, parse seg m op a b ws = parseBitB seg stat dyn m a b ws) :
    ReadBack seg (stat dst n) (encDst op dst (0#1 ++ n)) := by
  refine readBack_encDst (fun dst => stat dst n) hdst hi fun m a ws hma => ?_
  rw [hp, parseBitB, if_neg hma, msb_bitNumber, extract_append_low]
  rfl

/-- The static word form: the bit number is field B. -/
theorem readBack_bit {dst : Dst} {n : BitVec 4} {stat : Dst → BitVec 4 → Instr} {dyn : RegNo → RegNo → Instr}
    (hdst : dst.wf seg .word = true) (hi : (stat dst n).wf seg = true)
    (hp : ∀ m a b ws, parse seg m op a b ws = parseBit seg stat dyn m a b ws) :
    ReadBack seg (stat dst n) (encDst op dst n) :=
  readBack_encDst (fun dst => stat dst n) hdst hi fun m a ws hma => by rw [hp, parseBit, if_neg hma]

/-! ## Static shifts (R114) -/

/-- A left shift: the count is not negative and at most `bits`. -/
theorem shiftOf_left {bits n : Nat} (hn : n ≤ bits) (left right : Nat → Instr) {count : Int} (hcount : count = n)
    (ws : List Word) : shiftOf bits left right count ws = .ok (left n) ws := by
  subst hcount
  rw [shiftOf, if_pos ⟨by omega, by omega⟩, Int.toNat_natCast]

/-- A right shift: the count is negative. -/
theorem shiftOf_right {bits n : Nat} (hpos : 1 ≤ n) (hn : n ≤ bits) (left right : Nat → Instr) {count : Int}
    (hcount : count = -n) (ws : List Word) : shiftOf bits left right count ws = .ok (right n) ws := by
  subst hcount
  rw [shiftOf, if_neg (by omega), if_pos ⟨by omega, by omega⟩, neg_neg, Int.toNat_natCast]

theorem leftCount_toInt {n : Nat} (hn : n ≤ 32) : (BitVec.ofNat 16 n).toInt = n := by
  rw [BitVec.toInt_ofNat', Int.bmod_eq_of_le (by omega) (by omega)]

theorem rightCount_toInt {n : Nat} (hn : n ≤ 32) : (rightCount n).toInt = -n := by
  rw [rightCount, BitVec.toInt_neg, leftCount_toInt hn, Int.bmod_eq_of_le (by omega) (by omega)]

theorem leftCount_low_toInt {n : Nat} (hn : n ≤ 8) : ((BitVec.ofNat 16 n).extractLsb' 0 8).toInt = n := by
  interval_cases n <;> rfl

theorem rightCountB_low_toInt {n : Nat} (hn : n ≤ 8) : ((rightCountB n).extractLsb' 0 8).toInt = -n := by
  rw [rightCountB, extract_append_low]
  interval_cases n <;> rfl

/-- A left shift of a byte: the count is the low byte of the second word. -/
theorem readBack_leftShiftB {n : Nat} (left right : Nat → Instr) (hn : n ≤ 8) (hi : (left n).wf seg = true)
    (hp : ∀ w rest, parse seg 2 op a b (w :: rest) = shiftOf 8 left right (w.extractLsb' 0 8).toInt rest := by
      intros; rfl) :
    ReadBack seg (left n) [firstWord 2 op a b, BitVec.ofNat 16 n] :=
  readBack_twoWords hi fun rest => (hp _ rest).trans (shiftOf_left hn left right (leftCount_low_toInt hn) rest)

/-- A right shift of a byte. -/
theorem readBack_rightShiftB {n : Nat} (left right : Nat → Instr) (hpos : 1 ≤ n) (hn : n ≤ 8)
    (hi : (right n).wf seg = true)
    (hp : ∀ w rest, parse seg 2 op a b (w :: rest) = shiftOf 8 left right (w.extractLsb' 0 8).toInt rest := by
      intros; rfl) :
    ReadBack seg (right n) [firstWord 2 op a b, rightCountB n] :=
  readBack_twoWords hi fun rest => (hp _ rest).trans (shiftOf_right hpos hn left right (rightCountB_low_toInt hn) rest)

/-- A left shift of a word or a long: the count is the whole second word. -/
theorem readBack_leftShift {bits n : Nat} (left right : Nat → Instr) (hn : n ≤ bits) (hi : (left n).wf seg = true)
    (hp : ∀ w rest, parse seg 2 op a b (w :: rest) = shiftOf bits left right w.toInt rest := by intros; rfl)
    (hbits : bits ≤ 32 := by decide) : ReadBack seg (left n) [firstWord 2 op a b, BitVec.ofNat 16 n] :=
  readBack_twoWords hi fun rest => (hp _ rest).trans (shiftOf_left hn left right (leftCount_toInt (hn.trans hbits)) rest)

/-- A right shift of a word or a long. -/
theorem readBack_rightShift {bits n : Nat} (left right : Nat → Instr) (hpos : 1 ≤ n) (hn : n ≤ bits)
    (hi : (right n).wf seg = true)
    (hp : ∀ w rest, parse seg 2 op a b (w :: rest) = shiftOf bits left right w.toInt rest := by intros; rfl)
    (hbits : bits ≤ 32 := by decide) : ReadBack seg (right n) [firstWord 2 op a b, rightCount n] :=
  readBack_twoWords hi fun rest =>
    (hp _ rest).trans (shiftOf_right hpos hn left right (rightCount_toInt (hn.trans hbits)) rest)

/-! ## Rotates, conditions, ports and compact words -/

/-- A rotate, by one or by two (R96, R124). -/
theorem readBack_rotate {twice : Bool} (f : Bool → Instr) (hi : (f twice).wf seg = true)
    (hone : ∀ rest, parse seg 2 op a b rest = .ok (f false) rest := by intros; rfl)
    (htwo : ∀ rest, parse seg 2 op a (b ||| 2) rest = .ok (f true) rest := by intros; rfl) :
    ReadBack seg (f twice) (encReg op a (rotateField b twice)) := by
  cases twice with
  | false => exact readBack_oneWord hi hone
  | true => exact readBack_oneWord hi htwo

/-- One word with a condition code in field B (R110). -/
theorem readBack_cond {cc : Cond} (f : Cond → Instr) (hi : (f cc).wf seg = true)
    (hp : ∀ c rest, parse seg 2 op a c rest = .ok (f (.ofCode c)) rest := by intros; rfl) :
    ReadBack seg (f cc) (encReg op a cc.code) :=
  readBack_oneWord hi fun rest => by rw [hp, ofCode_code]

/-- A port operand: its register in field A, or the port in a word of its own (R120, R121). -/
theorem readBack_encPort {indOp directOp : BitVec 6} {port : Port} (f : Port → Instr) (hi : (f port).wf seg = true)
    (hind : ∀ p rest, parse seg 0 indOp p r rest = .ok (f (.ind p)) rest := by intros; rfl)
    (hdirect : ∀ w rest, parse seg 0 directOp r b (w :: rest) = .ok (f (.direct w)) rest := by intros; rfl) :
    ReadBack seg (f port) (encPort indOp directOp b r port) := by
  cases port with
  | ind p => exact readBack_oneWord hi (hind p)
  | direct w => exact readBack_twoWords hi (hdirect w)

theorem parseCompact_ldbShort (d : BitVec 4) (v : Byte) (rest : List Word) :
    parseCompact (compactWord 0 d v) rest = .ok (.ldbShort d v) rest := by
  simp [parseCompact]

/-- The word of CALR is the compact word of kind 1. -/
theorem compactWord_calr (p : BitVec 12) :
    compactWord 1 (p.extractLsb' 8 4) (p.extractLsb' 0 8) = 0b1101#4 ++ p := by
  rw [compactWord, BitVec.append_assoc, append_extract (n := 4) (m := 8)]
  rfl

theorem parseCompact_calr (p : BitVec 12) (rest : List Word) :
    parseCompact (compactWord 1 (p.extractLsb' 8 4) (p.extractLsb' 0 8)) rest = .ok (.calr p) rest := by
  rw [parseCompact, compactWord_kind, compactWord_calr, extract_append_low]
  rfl

theorem parseCompact_jr (cc : Cond) (p : BitVec 8) (rest : List Word) :
    parseCompact (compactWord 2 cc.code p) rest = .ok (.jr cc p) rest := by
  simp [parseCompact]

/-- Bit 7 tells DJNZ from DBJNZ, and the bits below it are the displacement (R120). -/
theorem parseCompact_loop (r : BitVec 4) (x : BitVec 1) (p : BitVec 7) (rest : List Word) :
    parseCompact (compactWord 3 r (x ++ p)) rest =
      if x.getLsbD 0 then .ok (.djnz r p) rest else .ok (.dbjnz r p) rest := by
  have hx : (compactWord 3 r (x ++ p)).getLsbD 7 = x.getLsbD 0 := by
    rw [compactWord, BitVec.getLsbD_append, BitVec.getLsbD_append]
    rfl
  have hp : (compactWord 3 r (x ++ p)).extractLsb' 0 7 = p := by
    refine BitVec.eq_of_getLsbD_eq fun i hi => ?_
    have hi8 : i < 8 := by omega
    simp only [compactWord, BitVec.getLsbD_extractLsb', BitVec.getLsbD_append, zero_add, hi, hi8, decide_true, if_true,
      Bool.true_and]
  rw [parseCompact, compactWord_kind, hx, hp, compactWord_field]
  rfl

end Shapes

/-! ## Every instruction -/

/-- The words of an extended instruction (R133): field A and field B are the two halves of its low byte. -/
theorem readBack_epa {seg : Bool} (op : EpaOp) (x : Byte) : ReadBack seg (.epa op x) (encode (.epa op x)) := by
  have hx : x.extractLsb' 4 4 ++ x.extractLsb' 0 4 = x := append_extract (n := 4) (m := 4) x
  refine readBack_oneWord rfl (fun rest => ?_) op.mode_ne_three
  cases op <;> exact congrArg (fun x => Parse.ok (Instr.epa _ x) rest) hx

/-- A well-formed instruction is read back from its words, and they are at most five. -/
theorem readBack_encode {seg : Bool} {i : Instr} (h : i.wf seg = true) : ReadBack seg i (encode i) := by
  cases i with
  -- Load and exchange
  | clrb dst => exact readBack_encDst .clrb h h
  | clr dst => exact readBack_encDst .clr h h
  | exb d src => exact readBack_encDst (.exb d) h h
  | ex d src => exact readBack_encDst (.ex d) h h
  | ldb d src => exact readBack_encSrc (.ldb d) h h
  | ldbBased d src => exact readBack_encBased (.ldbBased d) h h fun _ _ _ hm => if_neg hm
  | ldbStore dst s => exact readBack_encMem (fun dst => .ldbStore dst s) h h fun _ _ _ hm => if_neg hm
  | ldbStoreBased dst s => exact readBack_encBased (fun dst => .ldbStoreBased dst s) h h fun _ _ _ hm => if_neg hm
  | ldbStoreImm dst v => exact readBack_encMemImm (W := .byte) .ldbStoreImm h h fun _ _ _ _ => rfl
  | ldbShort d v => exact readBack_compactWord h (parseCompact_ldbShort d v)
  | ld d src => exact readBack_encSrc (.ld d) h h
  | ldBased d src => exact readBack_encBased (.ldBased d) h h fun _ _ _ hm => if_neg hm
  | ldStore dst s => exact readBack_encMem (fun dst => .ldStore dst s) h h fun _ _ _ hm => if_neg hm
  | ldStoreBased dst s => exact readBack_encBased (fun dst => .ldStoreBased dst s) h h fun _ _ _ hm => if_neg hm
  | ldStoreImm dst v => exact readBack_encMemImm (W := .word) .ldStoreImm h h fun _ _ _ hm => if_neg hm
  | ldl d src => exact readBack_encSrc (.ldl d) (Bool.and_eq_true_iff.1 h).2 h
  | ldlBased d src => exact readBack_encBased (.ldlBased d) (Bool.and_eq_true_iff.1 h).2 h fun _ _ _ hm => if_neg hm
  | ldlStore dst s => exact readBack_encMem (fun dst => .ldlStore dst s) (Bool.and_eq_true_iff.1 h).1 h
  | ldlStoreBased dst s =>
    exact readBack_encBased (fun dst => .ldlStoreBased dst s) (Bool.and_eq_true_iff.1 h).1 h fun _ _ _ hm => if_neg hm
  | lda d addr => exact readBack_addr (.lda d) (Bool.and_eq_true_iff.1 h).2 h fun _ => rfl
  | ldaIndexed d addr x =>
    obtain ⟨hda, hx⟩ := Bool.and_eq_true_iff.1 h
    have hx : x ≠ 0 := bne_iff_ne.1 hx
    exact readBack_addr (fun addr => .ldaIndexed d addr x) (Bool.and_eq_true_iff.1 hda).2 h fun ws =>
      congrArg (parseAddr seg ws).map (funext fun _ => if_neg hx)
  | ldaBased d src => exact readBack_encBased (.ldaBased d) (Bool.and_eq_true_iff.1 h).2 h fun _ _ _ hm => if_neg hm
  | ldar d disp => exact readBack_twoWords h
  | ldk d n => exact readBack_oneWord h
  | ldmLoad d src n => exact readBack_ldm (fun src => .ldmLoad d src n) h h (fun _ _ _ hm => if_neg hm) fun _ _ _ => rfl
  | ldmStore dst s n => exact readBack_ldm (fun dst => .ldmStore dst s n) h h (fun _ _ _ hm => if_neg hm) fun _ _ _ => rfl
  | ldrb d disp => exact readBack_twoWords h
  | ldrbStore disp s => exact readBack_twoWords h
  | ldr d disp => exact readBack_twoWords h
  | ldrStore disp s => exact readBack_twoWords h
  | ldrl d disp => exact readBack_twoWords h
  | ldrlStore disp s => exact readBack_twoWords h
  | pop dst s => exact readBack_dstInFieldB (fun dst => .pop dst s) (Bool.and_eq_true_iff.1 h).1 h
  | popl dst s => exact readBack_dstInFieldB (fun dst => .popl dst s) (Bool.and_eq_true_iff.1 h).1 h
  | push d src =>
    obtain ⟨-, hsrc⟩ := Bool.and_eq_true_iff.1 h
    cases src with
    | reg k => exact readBack_dstInFieldB (dst := .reg k) (fun dst => .push d dst.toSrc) hsrc h
    | imm v => exact readBack_twoWords h
    | mem m => exact readBack_dstInFieldB (W := .word) (dst := .mem m) (fun dst => .push d dst.toSrc) hsrc h
  | pushl d src => exact readBack_dstInFieldB (.pushl d) (Bool.and_eq_true_iff.1 h).2 h
  -- Arithmetic
  | adcb d s => exact readBack_oneWord h
  | adc d s => exact readBack_oneWord h
  | sbcb d s => exact readBack_oneWord h
  | sbc d s => exact readBack_oneWord h
  | addb d src => exact readBack_encSrc (.addb d) h h
  | add d src => exact readBack_encSrc (.add d) h h
  | addl d src => exact readBack_encSrc (.addl d) (Bool.and_eq_true_iff.1 h).2 h
  | subb d src => exact readBack_encSrc (.subb d) h h
  | sub d src => exact readBack_encSrc (.sub d) h h
  | subl d src => exact readBack_encSrc (.subl d) (Bool.and_eq_true_iff.1 h).2 h
  | cpb d src => exact readBack_encSrc (.cpb d) h h
  | cp d src => exact readBack_encSrc (.cp d) h h
  | cpl d src => exact readBack_encSrc (.cpl d) (Bool.and_eq_true_iff.1 h).2 h
  | cpbImm dst v => exact readBack_encMemImm (W := .byte) .cpbImm h h fun _ _ _ hm => if_neg hm
  | cpImm dst v => exact readBack_encMemImm (W := .word) .cpImm h h fun _ _ _ hm => if_neg hm
  | dab d => exact readBack_oneWord h
  | incb dst n => exact readBack_encDst (fun dst => .incb dst n) h h
  | inc dst n => exact readBack_encDst (fun dst => .inc dst n) h h
  | decb dst n => exact readBack_encDst (fun dst => .decb dst n) h h
  | dec dst n => exact readBack_encDst (fun dst => .dec dst n) h h
  | mult d src => exact readBack_encSrc (.mult d) (Bool.and_eq_true_iff.1 h).2 h
  | multl d src => exact readBack_encSrc (.multl d) (Bool.and_eq_true_iff.1 h).2 h
  | div d src => exact readBack_encSrc (.div d) (Bool.and_eq_true_iff.1 h).2 h
  | divl d src => exact readBack_encSrc (.divl d) (Bool.and_eq_true_iff.1 h).2 h
  | extsb d => exact readBack_oneWord h
  | exts d => exact readBack_oneWord h
  | extsl d => exact readBack_oneWord h
  | negb dst => exact readBack_encDst .negb h h
  | neg dst => exact readBack_encDst .neg h h
  -- Logical
  | andb d src => exact readBack_encSrc (.andb d) h h
  | and d src => exact readBack_encSrc (.and d) h h
  | orb d src => exact readBack_encSrc (.orb d) h h
  | or d src => exact readBack_encSrc (.or d) h h
  | xorb d src => exact readBack_encSrc (.xorb d) h h
  | xor d src => exact readBack_encSrc (.xor d) h h
  | comb dst => exact readBack_encDst .comb h h
  | com dst => exact readBack_encDst .com h h
  | testb dst => exact readBack_encDst .testb h h
  | test dst => exact readBack_encDst .test h h
  | testl dst => exact readBack_encDst .testl h h
  -- Program control
  | call dst => exact readBack_encMem .call h h
  | calr p => exact (compactWord_calr p ▸ readBack_compactWord h (parseCompact_calr p) : ReadBack seg _ [0b1101#4 ++ p])
  | dbjnz r p => exact readBack_compactWord h (parseCompact_loop r 0#1 p)
  | djnz r p => exact readBack_compactWord h (parseCompact_loop r 1#1 p)
  | iret => exact readBack_oneWord h
  | jp cc dst =>
    exact readBack_encMem (.jp cc) h h fun m a ws hm => (if_neg hm).trans (by rw [ofCode_code])
  | jr cc p => exact readBack_compactWord h (parseCompact_jr cc p)
  | ret cc => exact readBack_cond .ret h
  | sc v =>
    exact readBack_oneWord h fun rest => congrArg (fun v => Parse.ok (Instr.sc v) rest) (append_extract (n := 4) (m := 4) v)
  -- Bit manipulation
  | bitb dst n => exact readBack_bitB h h fun _ _ _ _ => rfl
  | bitbDyn d s => exact readBack_oneReg (fun d => .bitbDyn d s) h
  | bit dst n => exact readBack_bit h h fun _ _ _ _ => rfl
  | bitDyn d s => exact readBack_oneReg (fun d => .bitDyn d s) h
  | resb dst n => exact readBack_bitB h h fun _ _ _ _ => rfl
  | resbDyn d s => exact readBack_oneReg (fun d => .resbDyn d s) h
  | res dst n => exact readBack_bit h h fun _ _ _ _ => rfl
  | resDyn d s => exact readBack_oneReg (fun d => .resDyn d s) h
  | setb dst n => exact readBack_bitB h h fun _ _ _ _ => rfl
  | setbDyn d s => exact readBack_oneReg (fun d => .setbDyn d s) h
  | set dst n => exact readBack_bit h h fun _ _ _ _ => rfl
  | setDyn d s => exact readBack_oneReg (fun d => .setDyn d s) h
  | tccb cc d => exact readBack_cond (fun cc => .tccb cc d) h
  | tcc cc d => exact readBack_cond (fun cc => .tcc cc d) h
  | tsetb dst => exact readBack_encDst .tsetb h h
  | tset dst => exact readBack_encDst .tset h h
  -- Rotate and shift
  | rlb d twice => exact readBack_rotate (.rlb d) h
  | rl d twice => exact readBack_rotate (.rl d) h
  | rlcb d twice => exact readBack_rotate (.rlcb d) h
  | rlc d twice => exact readBack_rotate (.rlc d) h
  | rrb d twice => exact readBack_rotate (.rrb d) h
  | rr d twice => exact readBack_rotate (.rr d) h
  | rrcb d twice => exact readBack_rotate (.rrcb d) h
  | rrc d twice => exact readBack_rotate (.rrc d) h
  | rldb l s => exact readBack_oneWord h
  | rrdb l s => exact readBack_oneWord h
  | sdab d s => exact readBack_oneReg (.sdab d) h
  | sda d s => exact readBack_oneReg (.sda d) h
  | sdal d s => exact readBack_oneReg (.sdal d) h
  | sdlb d s => exact readBack_oneReg (.sdlb d) h
  | sdl d s => exact readBack_oneReg (.sdl d) h
  | sdll d s => exact readBack_oneReg (.sdll d) h
  | slab d n => exact readBack_leftShiftB (.slab d) (.srab d) (of_decide_eq_true h) h
  | sla d n => exact readBack_leftShift (.sla d) (.sra d) (of_decide_eq_true h) h
  | slal d n => exact readBack_leftShift (.slal d) (.sral d) (of_decide_eq_true (Bool.and_eq_true_iff.1 h).2) h
  | sllb d n => exact readBack_leftShiftB (.sllb d) (.srlb d) (of_decide_eq_true h) h
  | sll d n => exact readBack_leftShift (.sll d) (.srl d) (of_decide_eq_true h) h
  | slll d n => exact readBack_leftShift (.slll d) (.srll d) (of_decide_eq_true (Bool.and_eq_true_iff.1 h).2) h
  | srab d n =>
    obtain ⟨hpos, hn⟩ := Bool.and_eq_true_iff.1 h
    exact readBack_rightShiftB (.slab d) (.srab d) (of_decide_eq_true hpos) (of_decide_eq_true hn) h
  | sra d n =>
    obtain ⟨hpos, hn⟩ := Bool.and_eq_true_iff.1 h
    exact readBack_rightShift (.sla d) (.sra d) (of_decide_eq_true hpos) (of_decide_eq_true hn) h
  | sral d n =>
    obtain ⟨hpos, hn⟩ := Bool.and_eq_true_iff.1 h
    exact readBack_rightShift (.slal d) (.sral d) (of_decide_eq_true (Bool.and_eq_true_iff.1 hpos).2) (of_decide_eq_true hn) h
  | srlb d n =>
    obtain ⟨hpos, hn⟩ := Bool.and_eq_true_iff.1 h
    exact readBack_rightShiftB (.sllb d) (.srlb d) (of_decide_eq_true hpos) (of_decide_eq_true hn) h
  | srl d n =>
    obtain ⟨hpos, hn⟩ := Bool.and_eq_true_iff.1 h
    exact readBack_rightShift (.sll d) (.srl d) (of_decide_eq_true hpos) (of_decide_eq_true hn) h
  | srll d n =>
    obtain ⟨hpos, hn⟩ := Bool.and_eq_true_iff.1 h
    exact readBack_rightShift (.slll d) (.srll d) (of_decide_eq_true (Bool.and_eq_true_iff.1 hpos).2) (of_decide_eq_true hn) h
  -- Block transfer and string compare
  | cpdb d s r cc => exact readBack_compare (.cpdb d s r) h (fun _ => rfl) fun _ _ => rfl
  | cpd d s r cc => exact readBack_compare (.cpd d s r) h (fun _ => rfl) fun _ _ => rfl
  | cpdrb d s r cc => exact readBack_compare (.cpdrb d s r) h (fun _ => rfl) fun _ _ => rfl
  | cpdr d s r cc => exact readBack_compare (.cpdr d s r) h (fun _ => rfl) fun _ _ => rfl
  | cpib d s r cc => exact readBack_compare (.cpib d s r) h (fun _ => rfl) fun _ _ => rfl
  | cpi d s r cc => exact readBack_compare (.cpi d s r) h (fun _ => rfl) fun _ _ => rfl
  | cpirb d s r cc => exact readBack_compare (.cpirb d s r) h (fun _ => rfl) fun _ _ => rfl
  | cpir d s r cc => exact readBack_compare (.cpir d s r) h (fun _ => rfl) fun _ _ => rfl
  | cpsdb d s r cc => exact readBack_compare (.cpsdb d s r) h (fun _ => rfl) fun _ _ => rfl
  | cpsd d s r cc => exact readBack_compare (.cpsd d s r) h (fun _ => rfl) fun _ _ => rfl
  | cpsdrb d s r cc => exact readBack_compare (.cpsdrb d s r) h (fun _ => rfl) fun _ _ => rfl
  | cpsdr d s r cc => exact readBack_compare (.cpsdr d s r) h (fun _ => rfl) fun _ _ => rfl
  | cpsib d s r cc => exact readBack_compare (.cpsib d s r) h (fun _ => rfl) fun _ _ => rfl
  | cpsi d s r cc => exact readBack_compare (.cpsi d s r) h (fun _ => rfl) fun _ _ => rfl
  | cpsirb d s r cc => exact readBack_compare (.cpsirb d s r) h (fun _ => rfl) fun _ _ => rfl
  | cpsir d s r cc => exact readBack_compare (.cpsir d s r) h (fun _ => rfl) fun _ _ => rfl
  | lddb d s r => exact readBack_secondWord h (fun _ => rfl) fun _ => rfl
  | ldd d s r => exact readBack_secondWord h (fun _ => rfl) fun _ => rfl
  | lddrb d s r => exact readBack_secondWord h (fun _ => rfl) fun _ => rfl
  | lddr d s r => exact readBack_secondWord h (fun _ => rfl) fun _ => rfl
  | ldib d s r => exact readBack_secondWord h (fun _ => rfl) fun _ => rfl
  | ldi d s r => exact readBack_secondWord h (fun _ => rfl) fun _ => rfl
  | ldirb d s r => exact readBack_secondWord h (fun _ => rfl) fun _ => rfl
  | ldir d s r => exact readBack_secondWord h (fun _ => rfl) fun _ => rfl
  -- Translate
  | trdb d s r => exact readBack_secondWord h (fun _ => rfl) fun _ => rfl
  | trdrb d s r => exact readBack_secondWord h (fun _ => rfl) fun _ => rfl
  | trib d s r => exact readBack_secondWord h (fun _ => rfl) fun _ => rfl
  | trirb d s r => exact readBack_secondWord h (fun _ => rfl) fun _ => rfl
  | trtdb s t r => exact readBack_secondWord h (fun _ => rfl) fun _ => rfl
  | trtdrb s t r => exact readBack_secondWord h (fun _ => rfl) fun _ => rfl
  | trtib s t r => exact readBack_secondWord h (fun _ => rfl) fun _ => rfl
  | trtirb s t r => exact readBack_secondWord h (fun _ => rfl) fun _ => rfl
  -- Input and output
  | inpb d port => exact readBack_encPort (.inpb d) h
  | inp d port => exact readBack_encPort (.inp d) h
  | outb port s => exact readBack_encPort (fun port => .outb port s) h
  | out port s => exact readBack_encPort (fun port => .out port s) h
  | sinb d port => exact readBack_twoWords h
  | sin d port => exact readBack_twoWords h
  | soutb port s => exact readBack_twoWords h
  | sout port s => exact readBack_twoWords h
  | indb d s r => exact readBack_secondWord h (fun _ => rfl) fun _ => rfl
  | ind d s r => exact readBack_secondWord h (fun _ => rfl) fun _ => rfl
  | indrb d s r => exact readBack_secondWord h (fun _ => rfl) fun _ => rfl
  | indr d s r => exact readBack_secondWord h (fun _ => rfl) fun _ => rfl
  | inib d s r => exact readBack_secondWord h (fun _ => rfl) fun _ => rfl
  | ini d s r => exact readBack_secondWord h (fun _ => rfl) fun _ => rfl
  | inirb d s r => exact readBack_secondWord h (fun _ => rfl) fun _ => rfl
  | inir d s r => exact readBack_secondWord h (fun _ => rfl) fun _ => rfl
  | otdrb d s r => exact readBack_secondWord h (fun _ => rfl) fun _ => rfl
  | otdr d s r => exact readBack_secondWord h (fun _ => rfl) fun _ => rfl
  | otirb d s r => exact readBack_secondWord h (fun _ => rfl) fun _ => rfl
  | otir d s r => exact readBack_secondWord h (fun _ => rfl) fun _ => rfl
  | outdb d s r => exact readBack_secondWord h (fun _ => rfl) fun _ => rfl
  | outd d s r => exact readBack_secondWord h (fun _ => rfl) fun _ => rfl
  | outib d s r => exact readBack_secondWord h (fun _ => rfl) fun _ => rfl
  | outi d s r => exact readBack_secondWord h (fun _ => rfl) fun _ => rfl
  | sindb d s r => exact readBack_secondWord h (fun _ => rfl) fun _ => rfl
  | sind d s r => exact readBack_secondWord h (fun _ => rfl) fun _ => rfl
  | sindrb d s r => exact readBack_secondWord h (fun _ => rfl) fun _ => rfl
  | sindr d s r => exact readBack_secondWord h (fun _ => rfl) fun _ => rfl
  | sinib d s r => exact readBack_secondWord h (fun _ => rfl) fun _ => rfl
  | sini d s r => exact readBack_secondWord h (fun _ => rfl) fun _ => rfl
  | sinirb d s r => exact readBack_secondWord h (fun _ => rfl) fun _ => rfl
  | sinir d s r => exact readBack_secondWord h (fun _ => rfl) fun _ => rfl
  | soutdb d s r => exact readBack_secondWord h (fun _ => rfl) fun _ => rfl
  | soutd d s r => exact readBack_secondWord h (fun _ => rfl) fun _ => rfl
  | soutib d s r => exact readBack_secondWord h (fun _ => rfl) fun _ => rfl
  | souti d s r => exact readBack_secondWord h (fun _ => rfl) fun _ => rfl
  | sotdrb d s r => exact readBack_secondWord h (fun _ => rfl) fun _ => rfl
  | sotdr d s r => exact readBack_secondWord h (fun _ => rfl) fun _ => rfl
  | sotirb d s r => exact readBack_secondWord h (fun _ => rfl) fun _ => rfl
  | sotir d s r => exact readBack_secondWord h (fun _ => rfl) fun _ => rfl
  -- CPU control and extended instructions
  | comflg mask => exact readBack_oneWord h
  | di vi nvi => cases vi <;> cases nvi <;> exact readBack_oneWord h
  | ei vi nvi => cases vi <;> cases nvi <;> exact readBack_oneWord h
  | halt => exact readBack_oneWord h
  | ldctlRead d c => cases c <;> exact readBack_oneWord h
  | ldctlWrite c s => cases c <;> exact readBack_oneWord h
  | ldctlbRead d => exact readBack_oneWord h
  | ldctlbWrite s => exact readBack_oneWord h
  | ldps src => exact readBack_encMem .ldps h h
  | mbit => exact readBack_oneWord h
  | mreq d => exact readBack_oneWord h
  | mres => exact readBack_oneWord h
  | mset => exact readBack_oneWord h
  | nop => exact readBack_oneWord h
  | resflg mask => exact readBack_oneWord h
  | setflg mask => exact readBack_oneWord h
  | epa op x => exact readBack_epa op x

/-- Decoding the encoding of a well-formed instruction gives it back, whatever follows. -/
theorem decodeWords_encode {seg : Bool} {i : Instr} (h : i.wf seg = true) (rest : List Word) :
    decodeWords seg (encode i ++ rest) = .ok i rest := (readBack_encode h).decodes rest

/-- The longest encoding has five words (R90). -/
theorem length_encode_le {seg : Bool} {i : Instr} (h : i.wf seg = true) : (encode i).length ≤ 5 :=
  (readBack_encode h).length_le

end Sys2Proof
end

section
/-! SUPPORT. Bytes and words of an instruction in memory, the fetch that reads them, and the step (00_scope.md R14, 10_state.md
R28, 20_memory.md R64). -/

namespace Sys2Proof

theorem wordsOfBytes_bytesOfWords (ws : List Word) (bs : List Byte) :
    wordsOfBytes (bytesOfWords ws ++ bs) = ws ++ wordsOfBytes bs := by
  induction ws with
  | nil => rfl
  | cons w ws ih =>
    simp only [bytesOfWords, List.cons_append, wordsOfBytes, ih, append_extract (n := 8) (m := 8) w]

theorem length_bytesOfWords (ws : List Word) : (bytesOfWords ws).length = 2 * ws.length := by
  induction ws with
  | nil => rfl
  | cons w ws ih =>
    simp only [bytesOfWords, List.length_cons, ih]
    omega

/-- The decoder reads a well-formed instruction from its bytes, whatever follows. -/
theorem decode_encodeBytes {seg : Bool} {i : Instr} (h : i.wf seg = true) (bs : List Byte) :
    decode seg (encodeBytes i ++ bs) = .ok i (wordsOfBytes bs) := by
  rw [decode, encodeBytes, wordsOfBytes_bytesOfWords, decodeWords_encode h]

/-- No encoding is longer than a fetch. -/
theorem length_encodeBytes_le {seg : Bool} {i : Instr} (h : i.wf seg = true) :
    (encodeBytes i).length ≤ Machine.maxBytes := by
  have hlen := length_encode_le h
  rw [encodeBytes, length_bytesOfWords, Machine.maxBytes]
  omega

end Sys2Proof

namespace Sys2Proof.Machine

theorem State.readable_succ_of_next {s : State} {a : Addr} {b : Byte} (h : s.readByte a = .next b) (n : Nat) :
    s.readable (n + 1) a = b :: s.readable n (a.add 1) := by
  rw [State.readable, h]

/-- Bytes that stand in memory are the first of the readable ones. -/
theorem State.readable_eq_append (s : State) (bs : List Byte) (n : Nat) (a : Addr) (hn : bs.length ≤ n)
    (h : ∀ k (hk : k < bs.length), s.readByte (a.add (BitVec.ofNat 16 k)) = .next bs[k]) :
    ∃ tail, s.readable n a = bs ++ tail := by
  induction bs generalizing n a with
  | nil => exact ⟨_, rfl⟩
  | cons b bs ih =>
    obtain ⟨n, rfl⟩ : ∃ m, n = m + 1 := ⟨n - 1, by simp at hn; omega⟩
    have hb : s.readByte a = .next b := Addr.add_zero a ▸ h 0 (Nat.succ_pos _)
    have hbs : ∀ k (hk : k < bs.length), s.readByte ((a.add 1).add (BitVec.ofNat 16 k)) = .next bs[k] := fun k hk => by
      have hk1 : (1#16 + BitVec.ofNat 16 k) = BitVec.ofNat 16 (k + 1) := by rw [Nat.add_comm, BitVec.ofNat_add]
      simpa [hk1] using h (k + 1) (Nat.succ_lt_succ hk)
    obtain ⟨tail, htail⟩ := ih n (a.add 1) (Nat.le_of_succ_le_succ hn) hbs
    exact ⟨tail, by rw [State.readable_succ_of_next hb, htail, List.cons_append]⟩

/-- The fetch at an even PC whose bytes decode. -/
theorem State.fetch_of_decode {s : State} {i : Instr} {rest : List Word} (hpc : s.pc.odd = false)
    (h : decode s.segmented s.fetchBytes = .ok i rest) :
    s.fetch = .next (i, s.advance ((wordsOfBytes s.fetchBytes).length - rest.length)) := by
  simp [State.fetch, hpc, h]

/-- The fetch at an even PC where the bytes of a well-formed instruction stand: the PC moves past its words. -/
theorem State.fetch_of_encodeBytes {s : State} {i : Instr} (hpc : s.pc.odd = false) (hwf : i.wf s.segmented = true)
    (h : ∀ k (hk : k < (encodeBytes i).length), s.readByte (s.pc.add (BitVec.ofNat 16 k)) = .next ((encodeBytes i)[k])) :
    s.fetch = .next (i, s.advance (encode i).length) := by
  obtain ⟨tail, htail⟩ : ∃ tail, s.fetchBytes = encodeBytes i ++ tail :=
    s.readable_eq_append (encodeBytes i) maxBytes s.pc (length_encodeBytes_le hwf) h
  have hwords : (wordsOfBytes s.fetchBytes).length - (wordsOfBytes tail).length = (encode i).length := by
    rw [htail, encodeBytes, wordsOfBytes_bytesOfWords, List.length_append, Nat.add_sub_cancel]
  rw [State.fetch_of_decode hpc (htail ▸ decode_encodeBytes hwf tail), hwords]

/-- With no reset due and not halted, a step is the fetched instruction and then the boundary. -/
theorem step_of_fetch {s t : State} {i : Instr} (hr : s.resetReq = false) (hh : s.halted = false)
    (h : s.fetch = .next (i, t)) : step s = Res.andThen (exec i t) (boundary s) := by
  simp [step, hr, hh, h]

/-- Settles O5: the fetch gives the decoded instruction and moves the PC. -/
theorem stepRunsTheDecodedInstruction : Obligations.StepRunsTheDecodedInstruction :=
  fun _ _ _ hr hh hpc hdec => step_of_fetch hr hh (State.fetch_of_decode hpc hdec)

/-- Settles O6: the readable bytes begin with the encoding, the decoder reads the instruction back from it, and what it leaves
over is what the PC does not move past. -/
theorem stepRunsTheInstructionInMemory : Obligations.StepRunsTheInstructionInMemory :=
  fun _ _ hr hh hpc hwf hmem => step_of_fetch hr hh (State.fetch_of_encodeBytes hpc hwf hmem)

end Sys2Proof.Machine
end

section
/-! SUPPORT. What a change of the state may touch, as data, and the operations of Ops.lean and Operands.lean held to it. The
statements about what an instruction leaves alone, and the invariant, are read off this relation. -/

namespace Sys2Proof.Machine

/-! ## Flags -/

/-- The FCW `g` differs from `f` in flags of the set only. -/
structure Fcw.FlagsOnly (f : Fcw) (v : FlagSet) (g : Fcw) : Prop where
  c     : v.c = false → g.c = f.c
  z     : v.z = false → g.z = f.z
  s     : v.s = false → g.s = f.s
  pv    : v.pv = false → g.pv = f.pv
  da    : v.da = false → g.da = f.da
  h     : v.h = false → g.h = f.h
  seg   : g.seg = f.seg
  sys   : g.sys = f.sys
  epa   : g.epa = f.epa
  vie   : g.vie = f.vie
  nvie  : g.nvie = f.nvie
  rsvHi : g.rsvHi = f.rsvHi
  rsvLo : g.rsvLo = f.rsvLo

/-- The flags of an addition or a subtraction of width `W` (10_state.md R32). -/
def arithFlags : Width → FlagSet
  | .byte => ⟨true, true, true, true, true, true⟩
  | .word | .long => ⟨true, true, true, true, false, false⟩

/-- The flags of a logical operation of width `W` (10_state.md R32). -/
def logicFlags : Width → FlagSet
  | .byte => ⟨false, true, true, true, false, false⟩
  | .word | .long => ⟨false, true, true, false, false, false⟩

section Flags

variable {f : Fcw} {v : FlagSet} {g : Fcw}

theorem Fcw.FlagsOnly.setC (h : f.FlagsOnly v g) (hc : v.c = true) (x : Bool) : f.FlagsOnly v { g with c := x } :=
  { h with c := fun e => absurd (hc.symm.trans e) (by decide) }

theorem Fcw.FlagsOnly.setZ (h : f.FlagsOnly v g) (hz : v.z = true) (x : Bool) : f.FlagsOnly v { g with z := x } :=
  { h with z := fun e => absurd (hz.symm.trans e) (by decide) }

theorem Fcw.FlagsOnly.setS (h : f.FlagsOnly v g) (hs : v.s = true) (x : Bool) : f.FlagsOnly v { g with s := x } :=
  { h with s := fun e => absurd (hs.symm.trans e) (by decide) }

theorem Fcw.FlagsOnly.setPv (h : f.FlagsOnly v g) (hp : v.pv = true) (x : Bool) : f.FlagsOnly v { g with pv := x } :=
  { h with pv := fun e => absurd (hp.symm.trans e) (by decide) }

end Flags

theorem Fcw.flagsOnly_refl (f : Fcw) {v : FlagSet} : f.FlagsOnly v f := by
  constructor <;> simp

theorem Fcw.arith_flags {w : Nat} (f : Fcw) (a : AluResult w) :
    f.FlagsOnly ⟨true, true, true, true, false, false⟩ (f.arith a) := by
  constructor <;> simp [Fcw.arith, Fcw.setZS]

theorem Fcw.added_flags (W : Width) (f : Fcw) (a : AluResult W.bits) : f.FlagsOnly (arithFlags W) (f.added W a) := by
  cases W with
  | byte => constructor <;> simp [arithFlags, Fcw.added, Fcw.arithByte, Fcw.arith, Fcw.setZS]
  | word => exact f.arith_flags a
  | long => exact f.arith_flags a

theorem Fcw.subtracted_flags (W : Width) (f : Fcw) (a : AluResult W.bits) :
    f.FlagsOnly (arithFlags W) (f.subtracted W a) := by
  cases W with
  | byte => constructor <;> simp [arithFlags, Fcw.subtracted, Fcw.arithByte, Fcw.arith, Fcw.setZS]
  | word => exact f.arith_flags a
  | long => exact f.arith_flags a

theorem Fcw.arithKeepC_flags {w : Nat} (f : Fcw) (a : AluResult w) :
    f.FlagsOnly ⟨false, true, true, true, false, false⟩ (f.arithKeepC a) := by
  constructor <;> simp [Fcw.arithKeepC, Fcw.setZS]

theorem Fcw.negate_flags {w : Nat} (f : Fcw) (r : BitVec w) :
    f.FlagsOnly ⟨true, true, true, true, false, false⟩ (f.negate r) := by
  constructor <;> simp [Fcw.negate, Fcw.setZS]

theorem Fcw.logic_flags (W : Width) (f : Fcw) (r : BitVec W.bits) : f.FlagsOnly (logicFlags W) (f.logic W r) := by
  cases W <;> constructor <;> simp [logicFlags, Fcw.logic, Fcw.setZS]

theorem Fcw.multiplied_flags (f : Fcw) (h : Nat) (p : Int) :
    f.FlagsOnly ⟨true, true, true, true, false, false⟩ (f.multiplied h p) := by
  constructor <;> simp [Fcw.multiplied]

theorem DivCase.flags_flags (k : DivCase) (f : Fcw) (free : Nat) :
    f.FlagsOnly ⟨true, true, true, true, false, false⟩ (k.flags f free) := by
  cases k <;> constructor <;> simp [DivCase.flags]

theorem Fcw.shifted_flags (f : Fcw) (c z s pv : Bool) :
    f.FlagsOnly ⟨true, true, true, true, false, false⟩ { f with c := c, z := z, s := s, pv := pv } := by
  constructor <;> simp

theorem Fcw.mapMasked_flags (f : Fcw) (m : BitVec 4) (g : Bool → Bool) :
    f.FlagsOnly ⟨m.getLsbD 3, m.getLsbD 2, m.getLsbD 1, m.getLsbD 0, false, false⟩ (f.mapMasked m g) := by
  constructor <;> intros <;> simp_all [Fcw.mapMasked]

theorem Fcw.withFlags_flags (f : Fcw) (b : Byte) :
    f.FlagsOnly ⟨true, true, true, true, true, true⟩ (f.withFlags b) := by
  constructor <;> simp [Fcw.withFlags]

/-! ## The relation -/

/-- What a change of the state may touch. -/
structure Footprint where
  /-- Registers of the present mode. -/
  regs    : List RegNo := []
  flags   : FlagSet := ⟨false, false, false, false, false, false⟩
  /-- Runs of memory bytes. -/
  spans   : List Span := []
  /-- Segments a jump may go to besides the PC's own, where addresses have no segment number of their own. -/
  segs    : List (BitVec 7) := []
  /-- The control register that may be written. -/
  ctl     : Option CtlReg := none
  /-- VIE and NVIE. -/
  enables : Bool := false
  mo      : Bool := false
  halted  : Bool := false
  /-- The I/O log and the answers of the devices. -/
  io      : Bool := false
  /-- The samples of MI. -/
  mi      : Bool := false

/-- Every byte of the run of `n` from `a` lies in a span of the footprint. -/
def Footprint.Covers (w : Footprint) (a : Addr) (n : Nat) : Prop :=
  ∀ b, (Span.mk a n).holds b → ∃ r ∈ w.spans, r.holds b

/-- `t` is `s` but for what the footprint names. -/
structure State.ChangesOnly (s : State) (w : Footprint) (t : State) : Prop where
  par        : t.par = s.par
  nmi        : t.nmi = s.nmi
  events     : t.events = s.events
  resetReq   : t.resetReq = s.resetReq
  flags      : s.fcw.keeps t.fcw w.flags
  enables    : w.enables = false → t.fcw.vie = s.fcw.vie ∧ t.fcw.nvie = s.fcw.nvie
  regs       : ∀ k, k ∉ w.regs → t.reg k = s.reg k
  otherStack : w.ctl = none → t.otherStack = s.otherStack
  psapSeg    : w.ctl ≠ some .psapSeg → t.psapSeg = s.psapSeg
  psapOff    : w.ctl ≠ some .psapOff → t.psapOff = s.psapOff
  refresh    : w.ctl ≠ some .refresh → t.refresh = s.refresh
  mo         : w.mo = false → t.mo = s.mo
  halted     : w.halted = false → t.halted = s.halted
  io         : w.io = false → t.ioLog = s.ioLog ∧ t.ioIn = s.ioIn
  mi         : w.mi = false → t.miIn = s.miIn
  memWf      : s.mem.wf → t.mem.wf
  mem        : ∀ n, (∀ r ∈ w.spans, ∀ b, r.holds b → b.key ≠ n) → t.mem.get n = s.mem.get n
  pc         : s.segmented = false → t.pc.seg = s.pc.seg ∨ t.pc.seg ∈ w.segs

theorem Footprint.covers_of_mem {w : Footprint} {a : Addr} {n : Nat} (h : Span.mk a n ∈ w.spans) : w.Covers a n :=
  fun _ hb => ⟨_, h, hb⟩

section Keeps

variable {f g g' : Fcw} {v : FlagSet}

theorem Fcw.FlagsOnly.keeps (h : f.FlagsOnly v g) : f.keeps g v :=
  ⟨h.c, h.z, h.s, h.pv, h.da, h.h, h.seg, h.sys, h.epa, h.rsvHi, h.rsvLo⟩

theorem Fcw.keeps.sys (h : f.keeps g v) : g.sys = f.sys := by
  obtain ⟨-, -, -, -, -, -, -, hsys, -⟩ := h
  exact hsys

theorem Fcw.keeps.seg (h : f.keeps g v) : g.seg = f.seg := by
  obtain ⟨-, -, -, -, -, -, hseg, -⟩ := h
  exact hseg

theorem Fcw.keeps.rsv (h : f.keeps g v) : g.rsvHi = f.rsvHi ∧ g.rsvLo = f.rsvLo := by
  obtain ⟨-, -, -, -, -, -, -, -, -, hhi, hlo⟩ := h
  exact ⟨hhi, hlo⟩

theorem Fcw.keeps_refl (f : Fcw) (v : FlagSet) : f.keeps f v := by
  simp [Fcw.keeps]

theorem Fcw.keeps.trans (h : f.keeps g v) (h' : g.keeps g' v) : f.keeps g' v := by
  unfold Fcw.keeps at *
  grind

end Keeps

/-! ## The mode -/

theorem State.isZ8001_congr {s t : State} (hp : t.par = s.par) : t.isZ8001 = s.isZ8001 := by
  simp [State.isZ8001, hp]

theorem State.otherStack_congr {s t : State} (hp : t.par = s.par) (hs : t.fcw.sys = s.fcw.sys) (hr : t.regs = s.regs)
    (h1 : t.nspSeg = s.nspSeg) (h2 : t.nspOff = s.nspOff) : t.otherStack = s.otherStack := by
  simp [State.otherStack, State.normal, State.isZ8001, hp, hs, hr, h1, h2]

section Changes

variable {s t u : State} {w : Footprint}

theorem State.ChangesOnly.segmented (h : s.ChangesOnly w t) : t.segmented = s.segmented := by
  simp [State.segmented, State.isZ8001, h.par, h.flags.seg]

theorem State.ChangesOnly.offsetReg (h : s.ChangesOnly w t) (p : RegNo) : t.offsetReg p = s.offsetReg p := by
  simp [State.offsetReg, h.segmented]

theorem State.ChangesOnly.refl : s.ChangesOnly w s where
  par := rfl
  nmi := rfl
  events := rfl
  resetReq := rfl
  flags := s.fcw.keeps_refl _
  enables _ := ⟨rfl, rfl⟩
  regs _ _ := rfl
  otherStack _ := rfl
  psapSeg _ := rfl
  psapOff _ := rfl
  refresh _ := rfl
  mo _ := rfl
  halted _ := rfl
  io _ := ⟨rfl, rfl⟩
  mi _ := rfl
  memWf := id
  mem _ _ := rfl
  pc _ := .inl rfl

theorem State.ChangesOnly.trans (h : s.ChangesOnly w t) (h' : t.ChangesOnly w u) : s.ChangesOnly w u where
  par := h'.par.trans h.par
  nmi := h'.nmi.trans h.nmi
  events := h'.events.trans h.events
  resetReq := h'.resetReq.trans h.resetReq
  flags := h.flags.trans h'.flags
  enables e := ⟨(h'.enables e).1.trans (h.enables e).1, (h'.enables e).2.trans (h.enables e).2⟩
  regs k hk := (h'.regs k hk).trans (h.regs k hk)
  otherStack e := (h'.otherStack e).trans (h.otherStack e)
  psapSeg e := (h'.psapSeg e).trans (h.psapSeg e)
  psapOff e := (h'.psapOff e).trans (h.psapOff e)
  refresh e := (h'.refresh e).trans (h.refresh e)
  mo e := (h'.mo e).trans (h.mo e)
  halted e := (h'.halted e).trans (h.halted e)
  io e := ⟨(h'.io e).1.trans (h.io e).1, (h'.io e).2.trans (h.io e).2⟩
  mi e := (h'.mi e).trans (h.mi e)
  memWf hw := h'.memWf (h.memWf hw)
  mem n hn := (h'.mem n hn).trans (h.mem n hn)
  pc hs := by
    obtain e | e := h'.pc (h.segmented.trans hs)
    · exact e ▸ h.pc hs
    · exact .inr e

/-! ## Registers -/

theorem State.ChangesOnly.setReg (h : s.ChangesOnly w t) {k : RegNo} (hk : k ∈ w.regs) (v : Word) :
    s.ChangesOnly w (t.setReg k v) := by
  refine h.trans ?_
  constructor
  case flags => simpa using Fcw.keeps_refl _ _
  case regs => exact fun j hj => State.reg_setReg_other t v fun e => hj (e ▸ hk)
  case otherStack => exact fun _ => t.setReg_otherStack k v
  all_goals simp

theorem State.ChangesOnly.setByteReg (h : s.ChangesOnly w t) {k : RegNo} (hk : byteHome k ∈ w.regs) (v : Byte) :
    s.ChangesOnly w (t.setByteReg k v) := h.setReg hk _

theorem State.ChangesOnly.setLongReg (h : s.ChangesOnly w t) {k : RegNo} (h0 : k ∈ w.regs) (h1 : k + 1 ∈ w.regs)
    (v : Long) : s.ChangesOnly w (t.setLongReg k v) := (h.setReg h0 _).setReg h1 _

theorem State.ChangesOnly.setQuadReg (h : s.ChangesOnly w t) {k : RegNo} (hk : quadRegs k ⊆ w.regs) (v : Quad) :
    s.ChangesOnly w (t.setQuadReg k v) := by
  have h3 : k + 2 + 1 ∈ quadRegs k := by rw [BitVec.add_assoc]; simp [quadRegs]
  exact (h.setLongReg (hk (by simp [quadRegs])) (hk (by simp [quadRegs])) _).setLongReg (hk (by simp [quadRegs])) (hk h3) _

theorem State.ChangesOnly.setRegW (h : s.ChangesOnly w t) {W : Width} {k : RegNo} (hk : widthRegs W k ⊆ w.regs)
    (v : BitVec W.bits) : s.ChangesOnly w (t.setRegW W k v) := by
  cases W with
  | byte => exact h.setByteReg (hk (.head _)) v
  | word => exact h.setReg (hk (.head _)) v
  | long => exact h.setLongReg (hk (.head _)) (hk (.tail _ (.head _))) v

theorem State.ChangesOnly.stepPointer (h : s.ChangesOnly w t) {p : RegNo} (hp : s.offsetReg p ∈ w.regs) (k : Word) :
    s.ChangesOnly w (t.stepPointer p k) := h.setReg (h.offsetReg p ▸ hp) _

theorem State.ChangesOnly.loadAddress (h : s.ChangesOnly w t) {d : RegNo} (hd : s.addressRegs d ⊆ w.regs) (a : Addr) :
    s.ChangesOnly w (t.loadAddress d a) := by
  unfold State.loadAddress
  rw [h.segmented]
  unfold State.addressRegs at hd
  split
  next hs => rw [if_pos hs] at hd; exact (h.setReg (hd (by simp)) _).setReg (hd (by simp)) _
  next hs => rw [if_neg hs] at hd; exact h.setReg (hd (by simp)) _

/-! ## Flags and free values -/

/-- A new FCW, given by how it differs from the one before the change. -/
theorem State.ChangesOnly.withFcw (h : s.ChangesOnly w t) {f : Fcw} (hf : s.fcw.FlagsOnly w.flags f) :
    s.ChangesOnly w { t with fcw := f } :=
  have hsys : f.sys = t.fcw.sys := hf.sys.trans h.flags.sys.symm
  { h with
    flags := hf.keeps
    enables := fun _ => ⟨hf.vie, hf.nvie⟩
    regs := fun k hk => (State.reg_congr (s := t) (t := { t with fcw := f }) rfl hsys rfl rfl rfl k).trans (h.regs k hk)
    otherStack := fun e =>
      (State.otherStack_congr (s := t) (t := { t with fcw := f }) rfl hsys rfl rfl rfl).trans (h.otherStack e) }

/-- A new FCW, given by how it differs from the present one. -/
theorem State.ChangesOnly.setFlags (h : s.ChangesOnly w t) {f : Fcw} (hf : t.fcw.FlagsOnly w.flags f) :
    s.ChangesOnly w { t with fcw := f } := h.trans (ChangesOnly.refl.withFcw hf)

theorem State.ChangesOnly.withFree (h : s.ChangesOnly w t) (n : Nat) : s.ChangesOnly w { t with free := n } :=
  { h with }

theorem State.ChangesOnly.withFcwFree (h : s.ChangesOnly w t) {f : Fcw} (hf : s.fcw.FlagsOnly w.flags f) (n : Nat) :
    s.ChangesOnly w { t with fcw := f, free := n } := (h.withFcw hf).withFree n

theorem State.ChangesOnly.freeZ (h : s.ChangesOnly w t) (hz : w.flags.z = true) : s.ChangesOnly w t.freeZ :=
  (h.setFlags (t.fcw.flagsOnly_refl.setZ hz (Config.freeBit t.free))).withFree (t.free + 1)

theorem State.ChangesOnly.freeS (h : s.ChangesOnly w t) (hs : w.flags.s = true) : s.ChangesOnly w t.freeS :=
  (h.setFlags (t.fcw.flagsOnly_refl.setS hs (Config.freeBit t.free))).withFree (t.free + 1)

theorem State.ChangesOnly.freeC (h : s.ChangesOnly w t) (hc : w.flags.c = true) : s.ChangesOnly w t.freeC :=
  (h.setFlags (t.fcw.flagsOnly_refl.setC hc (Config.freeBit t.free))).withFree (t.free + 1)

/-- A result with its flags. -/
theorem State.changesOnly_result {W : Width} {d : RegNo} (hd : widthRegs W d ⊆ w.regs) {f : Fcw}
    (hf : s.fcw.FlagsOnly w.flags f) (r : BitVec W.bits) : s.ChangesOnly w (s.result W d r f) :=
  (ChangesOnly.refl.setRegW hd r).withFcw hf

/-! ## The PC -/

theorem State.ChangesOnly.jump (h : s.ChangesOnly w t) {a : Addr}
    (ha : s.segmented = false → a.seg = s.pc.seg ∨ a.seg ∈ w.segs) : s.ChangesOnly w (t.jump a) :=
  { h with pc := ha }

/-- A jump inside the segment of the PC. -/
theorem State.ChangesOnly.jumpNear (h : s.ChangesOnly w t) {a : Addr} (ha : a.seg = t.pc.seg) :
    s.ChangesOnly w (t.jump a) := h.jump fun hs => ha ▸ h.pc hs

/-! ## Memory -/

/-- A write leaves every place of memory but those of its bytes. -/
theorem State.get_write {W : Width} {a : Addr} {v : BitVec W.bits} (h : s.write W a v = .next t) {n : Nat}
    (hn : ∀ b, (Span.mk a W.bytes).holds b → b.key ≠ n) : t.mem.get n = s.mem.get n := by
  have key (i : Nat) (hi : i < W.bytes) : ¬ (a.add (BitVec.ofNat 16 i)).key = n := hn _ ⟨i, hi, rfl⟩
  have word {s t : State} {a : Addr} {v : Word} (h : s.writeWord a v = .next t) (h0 : ¬ a.key = n)
      (h1 : ¬ (a.add 1).key = n) : t.mem.get n = s.mem.get n := by
    obtain ⟨-, -, -, rfl⟩ := State.writeWord_eq_next.1 h
    simp only [Memory.get_set, if_neg h0, if_neg h1]
  have k0 : ¬ a.key = n := Addr.add_zero a ▸ key 0 (by cases W <;> decide)
  cases W with
  | byte =>
    obtain ⟨-, rfl⟩ := State.writeByte_eq_next.1 h
    simp only [Memory.get_set, if_neg k0]
  | word => exact word h k0 (key 1 (by decide))
  | long =>
    obtain ⟨u, hu, ht⟩ := State.writeLong_eq_next.1 h
    have h3 : (a.add 2).add 1 = a.add 3 := Addr.add_add a 2 1
    exact (word ht (key 2 (by decide)) (h3 ▸ key 3 (by decide))).trans (word hu k0 (key 1 (by decide)))

theorem State.ChangesOnly.write (h : s.ChangesOnly w t) {W : Width} {a : Addr} {v : BitVec W.bits}
    (ha : w.Covers a W.bytes) (hu : t.write W a v = .next u) : s.ChangesOnly w u := by
  refine h.trans ?_
  have hwf := State.write_wf hu
  have hget : ∀ n, (∀ r ∈ w.spans, ∀ b, r.holds b → b.key ≠ n) → u.mem.get n = t.mem.get n := fun n hn =>
    State.get_write hu fun b hb => let ⟨r, hr, hb⟩ := ha b hb; hn r hr b hb
  rw [State.write_only hu]
  exact { ChangesOnly.refl (s := t) (w := w) with memWf := hwf, mem := hget }

theorem State.ChangesOnly.store (h : s.ChangesOnly w t) {W : Width} {a : Addr} {v : BitVec W.bits}
    (ha : w.Covers a W.bytes) (hu : t.store W a v = .next u) : s.ChangesOnly w u :=
  h.write ha (State.store_eq_next.1 hu).2

/-! ## Operands -/

theorem State.ChangesOnly.writePlace (h : s.ChangesOnly w t) {W : Width} {dst : Dst} {v : BitVec W.bits}
    (hr : dstRegs W dst ⊆ w.regs) (hs : s.dstSpan W dst ⊆ w.spans) (hu : t.writePlace W (s.place dst) v = .next u) :
    s.ChangesOnly w u := by
  cases dst with
  | reg k => cases hu; exact h.setRegW hr v
  | mem m => exact h.store (Footprint.covers_of_mem (hs (.head _))) hu

theorem State.changesOnly_modify {W : Width} {dst : Dst} {result : BitVec W.bits → BitVec W.bits}
    {flags : BitVec W.bits → Fcw} (hr : dstRegs W dst ⊆ w.regs) (hs : s.dstSpan W dst ⊆ w.spans)
    (hf : ∀ v, s.fcw.FlagsOnly w.flags (flags v)) (ht : s.modify W dst result flags = .next t) : s.ChangesOnly w t := by
  obtain ⟨v, -, ht⟩ := Res.andThen_eq_next.1 ht
  obtain ⟨u, hu, ht⟩ := Res.andThen_eq_next.1 ht
  cases ht
  exact (ChangesOnly.refl.writePlace hr hs hu).withFcw (hf v)

/-! ## Stacks -/

theorem State.ChangesOnly.push (h : s.ChangesOnly w t) {W : Width} {p : RegNo} {v : BitVec W.bits}
    (hp : s.offsetReg p ∈ w.regs) (hs : t.pushSpan p W.bytes ∈ w.spans) (hu : t.push W p v = .next u) :
    s.ChangesOnly w u := by
  have ha : (t.stepPointer p (-(BitVec.ofNat 16 W.bytes))).pointer p = (t.pushSpan p W.bytes).base :=
    State.pointer_stepPointer t p _
  have hu : (t.stepPointer p (-(BitVec.ofNat 16 W.bytes))).store W (t.pushSpan p W.bytes).base v = .next u := ha ▸ hu
  exact (h.stepPointer hp _).store (Footprint.covers_of_mem hs) hu

theorem State.ChangesOnly.pop (h : s.ChangesOnly w t) {W : Width} {p : RegNo} {v : BitVec W.bits}
    (hp : s.offsetReg p ∈ w.regs) (hu : t.pop W p = .next (v, u)) : s.ChangesOnly w u := by
  obtain ⟨x, -, hu⟩ := Res.andThen_eq_next.1 hu
  cases hu
  exact h.stepPointer hp _

/-! ## Block instructions -/

theorem State.ChangesOnly.countDown (h : s.ChangesOnly w t) {r : RegNo} (hr : r ∈ w.regs) (hv : w.flags.pv = true) :
    s.ChangesOnly w (t.countDown r) :=
  (h.setReg hr (t.reg r - 1)).setFlags (by rw [State.setReg_fcw]; exact t.fcw.flagsOnly_refl.setPv hv (t.reg r - 1 == 0))

theorem State.ChangesOnly.againUnless (h : s.ChangesOnly w t) (finished : Bool) :
    s.ChangesOnly w (t.againUnless finished) := by
  unfold State.againUnless
  split
  · exact h
  · exact h.jumpNear (Addr.add_seg t.pc (-4))

/-! ## Input and output -/

theorem State.ChangesOnly.ioReadDone (h : s.ChangesOnly w t) (hio : w.io = true) (space : IoSpace) (W : Width)
    (port : Word) : s.ChangesOnly w (t.ioReadDone space W port) :=
  { h with io := fun e => absurd (hio.symm.trans e) (by decide) }

theorem State.ChangesOnly.ioWriteDone (h : s.ChangesOnly w t) (hio : w.io = true) (space : IoSpace) (W : Width)
    (port v : Word) : s.ChangesOnly w (t.ioWriteDone space W port v) :=
  { h with io := fun e => absurd (hio.symm.trans e) (by decide) }

theorem State.ChangesOnly.miSampled (h : s.ChangesOnly w t) (hmi : w.mi = true) : s.ChangesOnly w t.miSampled :=
  { h with mi := fun e => absurd (hmi.symm.trans e) (by decide) }

end Changes

end Sys2Proof.Machine
end

section
/-! SUPPORT. What each instruction that takes no trap may touch: one lemma per shared meaning, and from them one theorem over
every instruction. -/

namespace Sys2Proof.Machine

/-! ## The footprint of an instruction -/

/-- The control register an instruction writes. -/
def ctlOf : Instr → Option CtlReg
  | .ldctlWrite c _ => some c
  | _ => none

/-- DI and EI. -/
def setsEnables : Instr → Bool
  | .di _ _ | .ei _ _ => true
  | _ => false

/-- The instructions that drive MO (10_state.md R38). -/
def drivesMo : Instr → Bool
  | .mreq _ | .mres | .mset => true
  | _ => false

/-- HALT. -/
def halts : Instr → Bool
  | .halt => true
  | _ => false

/-- The segment of the address that CALL and JP go to. -/
def State.jumpSegs (s : State) : Instr → List (BitVec 7)
  | .call m | .jp _ m => [(s.ea m).seg]
  | _ => []

/-- What an instruction that takes no trap and does not load the whole FCW may touch. -/
def State.footprint (s : State) (i : Instr) : Footprint where
  regs := s.dests i
  flags := flagsOf i
  spans := s.stores i
  segs := s.jumpSegs i
  ctl := ctlOf i
  enables := setsEnables i
  mo := drivesMo i
  halted := halts i
  io := usesIo i
  mi := usesMi i

/-! ## Shared meanings -/

section Meanings

variable {s t u : State} {w : Footprint}

theorem State.ChangesOnly.of_next (h : (Host.Outcome.next u : Res State) = .next t) (hu : s.ChangesOnly w u) :
    s.ChangesOnly w t := by
  cases h
  exact hu

/-- An operand is read, and the rest always goes through. -/
theorem State.changesOnly_andThen {α : Type} {x : Res α} {f : α → State} (h : (x.andThen fun v => .next (f v)) = .next t)
    (hf : ∀ v, s.ChangesOnly w (f v)) : s.ChangesOnly w t := by
  obtain ⟨v, -, h⟩ := Res.andThen_eq_next.1 h
  exact .of_next h (hf v)

/-- In system mode a privileged instruction is its effect. -/
theorem effect_of_privileged {i : Instr} {effect : State → Res State} (hn : s.normal = false)
    (h : privileged i effect s = .next t) : effect s = .next t := by
  have hs : s.fcw.sys = true := by simpa [State.normal] using hn
  rwa [privileged, if_pos hs] at h

theorem changesOnly_privileged {i : Instr} {effect : State → State} (hn : s.normal = false)
    (h : privileged i (fun s => .next (effect s)) s = .next t) (he : s.ChangesOnly w (effect s)) : s.ChangesOnly w t :=
  .of_next (effect_of_privileged (effect := fun s => .next (effect s)) hn h) he

/-! ### Load and exchange -/

theorem changesOnly_exchange {W : Width} {d : RegNo} {src : Dst} (hd : widthRegs W d ⊆ w.regs)
    (hr : dstRegs W src ⊆ w.regs) (hs : s.dstSpan W src ⊆ w.spans) (h : exchange W d src s = .next t) :
    s.ChangesOnly w t := by
  obtain ⟨x, -, h⟩ := Res.andThen_eq_next.1 h
  obtain ⟨u, hu, h⟩ := Res.andThen_eq_next.1 h
  exact .of_next h ((State.ChangesOnly.refl.writePlace hr hs hu).setRegW hd x)

theorem State.ChangesOnly.loadRegs (h : s.ChangesOnly w u) {n : Nat} {k : RegNo} {a : Addr}
    (hk : ∀ j < n, k + BitVec.ofNat 4 j ∈ w.regs) (ht : loadRegs n k a u = .next t) : s.ChangesOnly w t := by
  induction n generalizing k a u with
  | zero => exact .of_next ht h
  | succ n ih =>
    obtain ⟨v, -, ht⟩ := Res.andThen_eq_next.1 ht
    have h0 : k ∈ w.regs := BitVec.add_zero k ▸ hk 0 (Nat.succ_pos n)
    refine ih (h.setReg h0 v) (fun j hj => ?_) ht
    have hadd : k + 1 + BitVec.ofNat 4 j = k + BitVec.ofNat 4 (j + 1) := by
      rw [BitVec.ofNat_add, BitVec.add_assoc, BitVec.add_comm 1]; rfl
    exact hadd ▸ hk (j + 1) (Nat.succ_lt_succ hj)

theorem State.ChangesOnly.storeRegs (h : s.ChangesOnly w u) {n : Nat} {k : RegNo} {a : Addr}
    (ha : ∀ j < n, w.Covers (a.add (BitVec.ofNat 16 (2 * j))) 2) (ht : storeRegs n k a u = .next t) :
    s.ChangesOnly w t := by
  induction n generalizing k a u with
  | zero => exact .of_next ht h
  | succ n ih =>
    obtain ⟨v, hv, ht⟩ := Res.andThen_eq_next.1 ht
    have h0 : w.Covers a 2 := Addr.add_zero a ▸ ha 0 (Nat.succ_pos n)
    refine ih (h.store h0 hv) (fun j hj => ?_) ht
    have hadd : (a.add 2).add (BitVec.ofNat 16 (2 * j)) = a.add (BitVec.ofNat 16 (2 * (j + 1))) := by
      rw [Addr.add_add, Nat.mul_succ, BitVec.ofNat_add, BitVec.add_comm]; rfl
    exact hadd ▸ ha (j + 1) (Nat.succ_lt_succ hj)

theorem changesOnly_ldmLoad {d : RegNo} {src : Mem} {n : BitVec 4}
    (hd : ((List.range (n.toNat + 1)).map fun j => d + BitVec.ofNat 4 j) ⊆ w.regs) (h : execLdmLoad d src n s = .next t) :
    s.ChangesOnly w t := by
  unfold execLdmLoad at h
  split at h
  · cases h
  · exact State.ChangesOnly.refl.loadRegs (fun j hj => hd (List.mem_map.2 ⟨j, List.mem_range.2 hj, rfl⟩)) h

/-- The words of a longer span. -/
theorem Footprint.covers_word {a : Addr} {n j : Nat} (h : Span.mk a (2 * n) ∈ w.spans) (hj : j < n) :
    w.Covers (a.add (BitVec.ofNat 16 (2 * j))) 2 := by
  rintro b ⟨i, hi, rfl⟩
  refine ⟨_, h, 2 * j + i, ?_, ?_⟩
  · show 2 * j + i < 2 * n
    have hi : i < 2 := hi
    omega
  · rw [Addr.add_add, BitVec.ofNat_add]

theorem changesOnly_popTo {W : Width} {dst : Dst} {p : RegNo} (hp : s.offsetReg p ∈ w.regs)
    (hr : dstRegs W dst ⊆ w.regs) (hs : s.dstSpan W dst ⊆ w.spans) (h : popTo W dst p s = .next t) :
    s.ChangesOnly w t := by
  have pops {f : BitVec W.bits × State → Res State}
      (hf : ∀ v u, f (v, u) = u.writePlace W (s.place dst) v) (h : (s.pop W p).andThen f = .next t) :
      s.ChangesOnly w t := by
    obtain ⟨⟨v, u⟩, hu, h⟩ := Res.andThen_eq_next.1 h
    exact (State.ChangesOnly.refl.pop hp hu).writePlace hr hs (hf v u ▸ h)
  cases dst with
  | reg k =>
    unfold popTo at h
    dsimp only [State.place] at h
    split at h
    · cases h
    · exact pops (fun _ _ => rfl) h
  | mem m => exact pops (fun _ _ => rfl) h

theorem changesOnly_pushFrom {W : Width} {p : RegNo} {src : Src W} (hp : s.offsetReg p ∈ w.regs)
    (hs : s.pushSpan p W.bytes ∈ w.spans) (h : pushFrom p src s = .next t) : s.ChangesOnly w t := by
  cases src with
  | reg k =>
    unfold pushFrom at h
    dsimp only at h
    split at h
    · cases h
    · exact State.ChangesOnly.refl.push hp hs h
  | imm v => exact State.ChangesOnly.refl.push hp hs h
  | mem m =>
    obtain ⟨v, -, h⟩ := Res.andThen_eq_next.1 h
    exact State.ChangesOnly.refl.push hp hs h

/-! ### Arithmetic and logic -/

theorem changesOnly_addTo {W : Width} {d : RegNo} (hd : widthRegs W d ⊆ w.regs) (hf : w.flags = arithFlags W)
    (b : BitVec W.bits) (carry : Bool) : s.ChangesOnly w (addTo W d b carry s) :=
  State.changesOnly_result hd (hf ▸ s.fcw.added_flags W _) _

theorem changesOnly_subFrom {W : Width} {d : RegNo} (hd : widthRegs W d ⊆ w.regs) (hf : w.flags = arithFlags W)
    (b : BitVec W.bits) (borrow : Bool) : s.ChangesOnly w (subFrom W d b borrow s) :=
  State.changesOnly_result hd (hf ▸ s.fcw.subtracted_flags W _) _

theorem changesOnly_compare {n : Nat} (hf : w.flags = ⟨true, true, true, true, false, false⟩) (a b : BitVec n) :
    s.ChangesOnly w (compare a b s) :=
  State.ChangesOnly.refl.withFcw (hf ▸ s.fcw.arith_flags _)

theorem changesOnly_logicTo {W : Width} {d : RegNo} (hd : widthRegs W d ⊆ w.regs) (hf : w.flags = logicFlags W)
    (r : BitVec W.bits) : s.ChangesOnly w (logicTo W d r s) :=
  (State.ChangesOnly.refl.setRegW hd r).withFcw (hf ▸ s.fcw.logic_flags W r)

theorem changesOnly_complement {W : Width} {dst : Dst} (hr : dstRegs W dst ⊆ w.regs) (hs : s.dstSpan W dst ⊆ w.spans)
    (hf : w.flags = logicFlags W) (h : complement W dst s = .next t) : s.ChangesOnly w t :=
  State.changesOnly_modify hr hs (fun v => hf ▸ s.fcw.logic_flags W (~~~v)) h

theorem changesOnly_decimalAdjust {d : RegNo} (hd : byteHome d ∈ w.regs)
    (hf : w.flags = ⟨true, true, true, false, false, false⟩) : s.ChangesOnly w (decimalAdjust d s) := by
  have flags (c z n : Bool) : s.fcw.FlagsOnly w.flags { s.fcw with c := c, z := z, s := n } :=
    hf ▸ ((s.fcw.flagsOnly_refl.setC rfl c).setZ rfl z).setS rfl n
  unfold decimalAdjust
  split
  · exact (State.ChangesOnly.refl.setByteReg hd _).withFcw (flags _ _ _)
  · exact (State.ChangesOnly.refl.setByteReg hd _).withFcwFree (flags _ _ _) _

theorem changesOnly_digitRotate {l r : RegNo} (hl : byteHome l ∈ w.regs) (hr : byteHome r ∈ w.regs)
    (hz : w.flags.z = true) (hs : w.flags.s = true) (link src : Byte) : s.ChangesOnly w (digitRotate l r link src s) :=
  (((State.ChangesOnly.refl.setByteReg hr src).setByteReg hl link).withFcw
    (s.fcw.flagsOnly_refl.setZ hz (link == 0))).freeS hs

/-- What follows the check of the registers of RLDB and RRDB. -/
theorem changesOnly_execDigit {l r : RegNo} {link src : Byte} (hl : byteHome l ∈ w.regs) (hr : byteHome r ∈ w.regs)
    (hz : w.flags.z = true) (hs : w.flags.s = true)
    (h : (if l = r then .refused .sameDigitRegister else .next (digitRotate l r link src s)) = (.next t : Res State)) :
    s.ChangesOnly w t := by
  split at h
  · cases h
  · exact .of_next h (changesOnly_digitRotate hl hr hz hs link src)

/-! ### Bits -/

theorem changesOnly_testBit {W : Width} {dst : Dst} {b : Nat} (hz : w.flags.z = true) (h : testBit W dst b s = .next t) :
    s.ChangesOnly w t :=
  State.changesOnly_andThen h fun v => State.ChangesOnly.refl.withFcw (s.fcw.flagsOnly_refl.setZ hz (!v.getLsbD b))

theorem changesOnly_readWrite {W : Width} {dst : Dst} {f : BitVec W.bits → BitVec W.bits} (hr : dstRegs W dst ⊆ w.regs)
    (hs : s.dstSpan W dst ⊆ w.spans) (h : ((s.readDst W dst).andThen fun v => s.writeDst W dst (f v)) = .next t) :
    s.ChangesOnly w t := by
  obtain ⟨v, -, h⟩ := Res.andThen_eq_next.1 h
  exact State.ChangesOnly.refl.writePlace hr hs h

theorem changesOnly_testCondition {W : Width} {d : RegNo} (cc : Cond) (hd : widthRegs W d ⊆ w.regs) :
    s.ChangesOnly w (testCondition W cc d s) := by
  unfold testCondition
  split
  · exact State.ChangesOnly.refl.setRegW hd _
  · exact .refl

/-! ### Rotates and shifts -/

section Shifts

variable {W : Width} {d : RegNo} (hd : widthRegs W d ⊆ w.regs) (hf : w.flags = ⟨true, true, true, true, false, false⟩)

include hd hf

/-- A register result with C, Z, S, P/V, and free values drawn. -/
theorem changesOnly_shifted (r : BitVec W.bits) (c z n pv : Bool) (free : Nat) :
    s.ChangesOnly w { s.setRegW W d r with fcw := { s.fcw with c := c, z := z, s := n, pv := pv }, free := free } :=
  (State.ChangesOnly.refl.setRegW hd r).withFcwFree (hf ▸ s.fcw.shifted_flags c z n pv) free

theorem changesOnly_rotate (step : Shifted W.bits → Shifted W.bits) (twice : Bool) :
    s.ChangesOnly w (rotate W step d twice s) := changesOnly_shifted hd hf _ _ _ _ _ _

theorem changesOnly_arithShift (step : Shifted W.bits → Shifted W.bits) (left : Bool) (n : Nat) :
    s.ChangesOnly w (arithShift W step left d n s) := changesOnly_shifted hd hf _ _ _ _ _ _

theorem changesOnly_logicShift (step : Shifted W.bits → Shifted W.bits) (n : Nat) :
    s.ChangesOnly w (logicShift W step d n s) := changesOnly_shifted hd hf _ _ _ _ _ _

theorem changesOnly_shiftOutOfRange : s.ChangesOnly w (shiftOutOfRange W d s) := changesOnly_shifted hd hf _ _ _ _ _ _

theorem changesOnly_dynamicArith (r : RegNo) : s.ChangesOnly w (dynamicArith W d r s) := by
  unfold dynamicArith
  dsimp only
  split
  · exact changesOnly_shiftOutOfRange hd hf
  · split
    · exact changesOnly_arithShift hd hf _ _ _
    · exact changesOnly_arithShift hd hf _ _ _

theorem changesOnly_dynamicLogic (r : RegNo) : s.ChangesOnly w (dynamicLogic W d r s) := by
  unfold dynamicLogic
  dsimp only
  split
  · exact changesOnly_shiftOutOfRange hd hf
  · split
    · exact changesOnly_logicShift hd hf _ _
    · exact changesOnly_logicShift hd hf _ _

end Shifts

/-! ### Block, translate and block-I/O instructions -/

theorem State.ChangesOnly.compareFlags (h : s.ChangesOnly w t) (hc : w.flags.c = true) (hz : w.flags.z = true)
    (hs : w.flags.s = true) (hit : Bool) : s.ChangesOnly w (t.compareFlags hit) :=
  ((h.setFlags (t.fcw.flagsOnly_refl.setZ hz hit)).freeC hc).freeS hs

/-- What follows the check of the registers. -/
theorem next_of_apart {regs : List RegNo} {x : Res State}
    (h : (if overlap regs then .refused .registerOverlap else x) = .next t) : x = .next t := by
  split at h
  · cases h
  · exact h

theorem changesOnly_compareElement {W : Width} {forward repeats : Bool} {d p r : RegNo} {cc : Cond}
    (hp : s.offsetReg p ∈ w.regs) (hr : r ∈ w.regs) (hf : w.flags = ⟨true, true, true, true, false, false⟩)
    (h : compareElement W forward repeats d p r cc s = .next t) : s.ChangesOnly w t := by
  refine State.changesOnly_andThen (next_of_apart h) fun m => ?_
  exact (((State.ChangesOnly.refl.compareFlags (by rw [hf]) (by rw [hf]) (by rw [hf]) _).stepPointer hp _).countDown hr
    (by rw [hf])).againUnless _

theorem changesOnly_compareStrings {W : Width} {forward repeats : Bool} {d p r : RegNo} {cc : Cond}
    (hd : s.offsetReg d ∈ w.regs) (hp : s.offsetReg p ∈ w.regs) (hr : r ∈ w.regs)
    (hf : w.flags = ⟨true, true, true, true, false, false⟩)
    (h : compareStrings W forward repeats d p r cc s = .next t) : s.ChangesOnly w t := by
  obtain ⟨b, -, h⟩ := Res.andThen_eq_next.1 (next_of_apart h)
  refine State.changesOnly_andThen h fun a => ?_
  exact ((((State.ChangesOnly.refl.compareFlags (by rw [hf]) (by rw [hf]) (by rw [hf]) _).stepPointer hd _).stepPointer hp
    _).countDown hr (by rw [hf])).againUnless _

theorem changesOnly_moveElement {W : Width} {forward repeats : Bool} {d p r : RegNo}
    (hd : s.offsetReg d ∈ w.regs) (hp : s.offsetReg p ∈ w.regs) (hr : r ∈ w.regs) (hz : w.flags.z = true)
    (hv : w.flags.pv = true) (hs : ⟨s.pointer d, W.bytes⟩ ∈ w.spans)
    (h : moveElement W forward repeats d p r s = .next t) : s.ChangesOnly w t := by
  obtain ⟨v, -, h⟩ := Res.andThen_eq_next.1 (next_of_apart h)
  obtain ⟨u, hu, h⟩ := Res.andThen_eq_next.1 h
  have hu : s.ChangesOnly w u := State.ChangesOnly.refl.store (Footprint.covers_of_mem hs) hu
  exact .of_next h (((((hu.freeZ hz).stepPointer hd _).stepPointer hp _).countDown hr hv).againUnless _)

theorem State.ChangesOnly.freeRh1 (h : s.ChangesOnly w t) (h1 : 1 ∈ w.regs) : s.ChangesOnly w t.freeRh1 :=
  (h.setByteReg (k := rh1) h1 _).withFree (t.free + 1)

theorem changesOnly_translateElement {forward repeats : Bool} {p table r : RegNo} (hp : s.offsetReg p ∈ w.regs)
    (hr : r ∈ w.regs) (h1 : 1 ∈ w.regs) (hz : w.flags.z = true) (hv : w.flags.pv = true)
    (hs : ⟨s.pointer p, 1⟩ ∈ w.spans) (h : translateElement forward repeats p table r s = .next t) :
    s.ChangesOnly w t := by
  obtain ⟨b, -, h⟩ := Res.andThen_eq_next.1 (next_of_apart h)
  obtain ⟨v, -, h⟩ := Res.andThen_eq_next.1 h
  obtain ⟨u, hu, h⟩ := Res.andThen_eq_next.1 h
  have hu : s.ChangesOnly w u := State.ChangesOnly.refl.store (W := .byte) (Footprint.covers_of_mem hs) hu
  exact .of_next h (((((hu.freeZ hz).freeRh1 h1).stepPointer hp _).countDown hr hv).againUnless _)

theorem changesOnly_translateTest {forward repeats : Bool} {p table r : RegNo} (hp : s.offsetReg p ∈ w.regs)
    (hr : r ∈ w.regs) (h1 : 1 ∈ w.regs) (hz : w.flags.z = true) (hv : w.flags.pv = true)
    (h : translateTest forward repeats p table r s = .next t) : s.ChangesOnly w t := by
  obtain ⟨b, -, h⟩ := Res.andThen_eq_next.1 (next_of_apart h)
  refine State.changesOnly_andThen h fun v => ?_
  exact ((((State.ChangesOnly.refl.setByteReg (k := rh1) h1 v).withFcw
    (s.fcw.flagsOnly_refl.setZ hz (v == 0))).stepPointer hp _).countDown hr hv).againUnless _

theorem changesOnly_inputElement {space : IoSpace} {W : Width} {forward repeats : Bool} {d p r : RegNo}
    (hd : s.offsetReg d ∈ w.regs) (hr : r ∈ w.regs) (hz : w.flags.z = true) (hv : w.flags.pv = true) (hio : w.io = true)
    (hs : ⟨s.pointer d, W.bytes⟩ ∈ w.spans) (h : inputElement space W forward repeats d p r s = .next t) :
    s.ChangesOnly w t := by
  obtain ⟨u, hu, h⟩ := Res.andThen_eq_next.1 (next_of_apart h)
  have hu : s.ChangesOnly w u :=
    (State.ChangesOnly.refl.ioReadDone hio space W (s.reg p)).store (Footprint.covers_of_mem hs) hu
  exact .of_next h ((((hu.freeZ hz).stepPointer hd _).countDown hr hv).againUnless _)

theorem changesOnly_outputElement {space : IoSpace} {W : Width} {forward repeats : Bool} {d p r : RegNo}
    (hp : s.offsetReg p ∈ w.regs) (hr : r ∈ w.regs) (hz : w.flags.z = true) (hv : w.flags.pv = true) (hio : w.io = true)
    (h : outputElement space W forward repeats d p r s = .next t) : s.ChangesOnly w t := by
  refine State.changesOnly_andThen (next_of_apart h) fun v => ?_
  exact ((((State.ChangesOnly.refl.ioWriteDone hio space W (s.reg d) (toIo v)).freeZ hz).stepPointer hp _).countDown hr
    hv).againUnless _

theorem changesOnly_input {W : Width} {d : RegNo} (hd : widthRegs W d ⊆ w.regs) (hio : w.io = true) (space : IoSpace)
    (port : Word) : s.ChangesOnly w (input space W d port s) :=
  (State.ChangesOnly.refl.ioReadDone hio space W port).setRegW hd _

theorem changesOnly_output {W : Width} {r : RegNo} (hio : w.io = true) (space : IoSpace) (port : Word) :
    s.ChangesOnly w (output space W port r s) := State.ChangesOnly.refl.ioWriteDone hio space W port _

/-! ### Program control -/

theorem changesOnly_callTo {a : Addr} (h15 : s.offsetReg s.stackReg ∈ w.regs)
    (hs : s.pushSpan s.stackReg (if s.segmented then 4 else 2) ∈ w.spans)
    (ha : s.segmented = false → a.seg = s.pc.seg ∨ a.seg ∈ w.segs) (h : callTo a s = .next t) : s.ChangesOnly w t := by
  obtain ⟨u, hu, h⟩ := Res.andThen_eq_next.1 h
  refine .of_next h (State.ChangesOnly.jump ?_ ha)
  unfold State.pushAddr at hu
  split at hu
  next hseg => rw [if_pos hseg] at hs; exact State.ChangesOnly.refl.push (W := .long) h15 hs hu
  next hseg => rw [if_neg hseg] at hs; exact State.ChangesOnly.refl.push (W := .word) h15 hs hu

theorem State.offsetReg_stackReg (s : State) : s.offsetReg s.stackReg = 15 := by
  unfold State.offsetReg State.stackReg
  split <;> rfl

/-- A popped address moves the stack pointer, and without segments lies in the PC's. -/
theorem popAddr_next {a : Addr} (h15 : s.offsetReg s.stackReg ∈ w.regs) (h : s.popAddr = .next (a, t)) :
    s.ChangesOnly w t ∧ (s.segmented = false → a.seg = s.pc.seg) := by
  unfold State.popAddr at h
  split at h
  next hseg =>
    obtain ⟨⟨v, u⟩, hu, h⟩ := Res.andThen_eq_next.1 h
    cases h
    exact ⟨State.ChangesOnly.refl.pop h15 hu, fun e => absurd (hseg.symm.trans e) (by decide)⟩
  next =>
    obtain ⟨⟨v, u⟩, hu, h⟩ := Res.andThen_eq_next.1 h
    cases h
    exact ⟨State.ChangesOnly.refl.pop h15 hu, fun _ => rfl⟩

theorem changesOnly_execRet {cc : Cond} (h15 : s.offsetReg s.stackReg ∈ w.regs) (h : execRet cc s = .next t) :
    s.ChangesOnly w t := by
  unfold execRet at h
  split at h
  · obtain ⟨⟨a, u⟩, hu, h⟩ := Res.andThen_eq_next.1 h
    obtain ⟨hu, ha⟩ := popAddr_next h15 hu
    exact .of_next h (hu.jump fun hs => .inl (ha hs))
  · exact .of_next h .refl

theorem changesOnly_decrementAndJump {W : Width} {r : RegNo} (hr : widthRegs W r ⊆ w.regs) (p : BitVec 7) :
    s.ChangesOnly w (decrementAndJump W r p s) := by
  have hset : s.ChangesOnly w (s.setRegW W r (s.regW W r - 1)) := State.ChangesOnly.refl.setRegW hr _
  unfold decrementAndJump
  dsimp only
  split
  · exact hset
  · exact hset.jumpNear rfl

theorem changesOnly_jumpIf {a : Addr} {c : Prop} [Decidable c]
    (ha : s.segmented = false → a.seg = s.pc.seg ∨ a.seg ∈ w.segs) : s.ChangesOnly w (if c then s.jump a else s) := by
  split
  · exact State.ChangesOnly.refl.jump ha
  · exact .refl

/-! ### CPU control -/

theorem readCtl_next {c : CtlReg} {v : Word} (h : readCtl c s = .next (v, t)) : ∃ n, t = { s with free := n } := by
  have low (stored reserved : Word) {v : Word} {t : State} (h : s.lowByteRead stored reserved = (v, t)) :
      ∃ n, t = { s with free := n } := by
    obtain ⟨x, n, hx, -⟩ := lowByteRead_cases s stored reserved
    exact ⟨n, (congrArg Prod.snd (h.symm.trans hx) :)⟩
  unfold readCtl at h
  split at h
  · cases h; exact ⟨_, rfl⟩
  · cases h; exact ⟨_, rfl⟩
  · split at h
    · exact low _ _ (Host.Outcome.next.inj h)
    · cases h
  · exact low _ _ (Host.Outcome.next.inj h)
  · split at h
    · cases h; exact ⟨_, rfl⟩
    · cases h
  · cases h; exact ⟨_, rfl⟩

theorem changesOnly_execLdctlRead {c : CtlReg} {d : RegNo} (hn : s.normal = false) (hd : d ∈ w.regs)
    (h : execLdctlRead d c s = .next t) : s.ChangesOnly w t := by
  unfold execLdctlRead at h
  obtain ⟨⟨v, u⟩, hu, h⟩ := Res.andThen_eq_next.1 (effect_of_privileged hn h)
  obtain ⟨n, rfl⟩ := readCtl_next hu
  exact .of_next h ((State.ChangesOnly.refl.withFree n).setReg hd v)

/-- In system mode the normal-mode copies of R14 and R15 are no registers of the present mode. -/
theorem State.reg_system (hs : s.fcw.sys = true) (k : RegNo) : s.reg k = s.regs[k.toNat] := by
  simp [State.reg, State.normal, hs]

/-- LDCTL to a control register other than FCW, in system mode. -/
theorem changesOnly_writeCtl {c : CtlReg} {v : Word} (hn : s.normal = false) (hc : c ≠ .fcw) (hw : w.ctl = some c)
    (h : writeCtl c v s = .next t) : s.ChangesOnly w t := by
  have hs : s.fcw.sys = true := by simpa [State.normal] using hn
  have ne {c' : CtlReg} {p : Prop} (e : w.ctl ≠ some c') (hc : c = c') : p := absurd (hc ▸ hw) e
  have base := State.ChangesOnly.refl (s := s) (w := w)
  cases c with
  | fcw => exact absurd rfl hc
  | refresh => exact .of_next h { base with refresh := fun e => ne e rfl, otherStack := fun e => by simp [hw] at e }
  | psapSeg =>
    unfold writeCtl at h
    dsimp only at h
    split at h
    · exact .of_next h { base with psapSeg := fun e => ne e rfl }
    · cases h
  | psapOff => exact .of_next h { base with psapOff := fun e => ne e rfl }
  | nspSeg =>
    unfold writeCtl at h
    dsimp only at h
    split at h
    · refine .of_next h { base with regs := fun k _ => ?_, otherStack := fun e => by simp [hw] at e }
      rw [State.reg_system hs, State.reg_system (s := { s with nspSeg := v }) hs]
    · cases h
  | nspOff =>
    refine .of_next h { base with regs := fun k _ => ?_, otherStack := fun e => by simp [hw] at e }
    rw [State.reg_system hs, State.reg_system (s := { s with nspOff := v }) hs]

theorem State.ChangesOnly.driveMo (h : s.ChangesOnly w t) (hm : w.mo = true) (p : Pin) :
    s.ChangesOnly w { t with mo := p } :=
  { h with mo := fun e => absurd (hm.symm.trans e) (by decide) }

theorem changesOnly_setEnables (he : w.enables = true) (vie nvie : Bool) :
    s.ChangesOnly w { s with fcw := { s.fcw with vie := vie, nvie := nvie } } :=
  { State.ChangesOnly.refl (s := s) (w := w) with
    enables := fun e => absurd (he.symm.trans e) (by decide)
    flags := by simp [Fcw.keeps] }

theorem changesOnly_execDi {vi nvi : Bool} (hn : s.normal = false) (he : w.enables = true)
    (h : execDi vi nvi s = .next t) : s.ChangesOnly w t := by
  unfold execDi at h
  exact changesOnly_privileged hn h (changesOnly_setEnables he _ _)

theorem changesOnly_execEi {vi nvi : Bool} (hn : s.normal = false) (he : w.enables = true)
    (h : execEi vi nvi s = .next t) : s.ChangesOnly w t := by
  unfold execEi at h
  exact changesOnly_privileged hn h (changesOnly_setEnables he _ _)

theorem changesOnly_halt (hh : w.halted = true) : s.ChangesOnly w { s with halted := true } :=
  { State.ChangesOnly.refl (s := s) (w := w) with halted := fun e => absurd (hh.symm.trans e) (by decide) }

theorem changesOnly_execHalt (hn : s.normal = false) (hh : w.halted = true)
    (h : execHalt s = .next t) : s.ChangesOnly w t := by
  unfold execHalt at h
  exact changesOnly_privileged hn h (changesOnly_halt hh)

theorem changesOnly_execMres (hn : s.normal = false) (hm : w.mo = true)
    (h : execMres s = .next t) : s.ChangesOnly w t := by
  unfold execMres at h
  exact changesOnly_privileged hn h (State.ChangesOnly.refl.driveMo hm .high)

theorem changesOnly_execMset (hn : s.normal = false) (hm : w.mo = true)
    (h : execMset s = .next t) : s.ChangesOnly w t := by
  unfold execMset at h
  exact changesOnly_privileged hn h (State.ChangesOnly.refl.driveMo hm .low)

theorem changesOnly_multiMicroBit (hmi : w.mi = true) (hz : w.flags.z = true) (hs : w.flags.s = true) :
    s.ChangesOnly w (multiMicroBit s) :=
  ((State.ChangesOnly.refl.miSampled hmi).withFcw (s.fcw.flagsOnly_refl.setS hs (s.miLevel == .high))).freeZ hz

theorem changesOnly_multiMicroRequest {d : RegNo} (hd : d ∈ w.regs) (hmi : w.mi = true) (hm : w.mo = true)
    (hz : w.flags.z = true) (hs : w.flags.s = true) : s.ChangesOnly w (multiMicroRequest d s) := by
  have sampled : s.ChangesOnly w s.miSampled := State.ChangesOnly.refl.miSampled hmi
  have flags (z n : Bool) : s.fcw.FlagsOnly w.flags { s.fcw with z := z, s := n } :=
    (s.fcw.flagsOnly_refl.setZ hz z).setS hs n
  cases hl : s.miLevel with
  | low =>
    rw [multiMicroRequest_low s d hl]
    exact (sampled.withFcw (flags false false)).driveMo hm .high
  | high =>
    rw [multiMicroRequest_high s d hl]
    generalize s.miSampled.miLevel = q
    exact (((sampled.miSampled hmi).setReg hd 0).withFcw (flags true (decide (q = .low)))).driveMo hm
      (if q = .low then .low else .high)

end Meanings

/-! ## Every instruction -/

/-- An instruction that takes no trap and does not load the whole FCW touches only its footprint. -/
theorem exec_changesOnly {s t : State} {i : Instr} (htrap : s.traps i = false) (hload : loadsFcw i = false)
    (h : exec i s = .next t) : s.ChangesOnly (s.footprint i) t := by
  have all (l : List RegNo) : l ⊆ l := List.Subset.refl l
  have first (k : RegNo) (l : List RegNo) : [k] ⊆ k :: l := List.cons_subset_cons k (List.nil_subset l)
  have spans (l : List Span) : l ⊆ l := List.Subset.refl l
  have start {w : Footprint} : s.ChangesOnly w s := .refl
  cases i with
  -- Load and exchange
  | clrb dst | clr dst => exact start.writePlace (all _) (spans _) h
  | exb d src => exact changesOnly_exchange (W := .byte) (first _ _) (List.subset_cons_self _ _) (spans _) h
  | ex d src => exact changesOnly_exchange (W := .word) (first _ _) (List.subset_cons_self _ _) (spans _) h
  | ldb d src | ldbBased d src | ld d src | ldBased d src | ldl d src | ldlBased d src | ldrb d disp | ldr d disp
  | ldrl d disp => exact State.changesOnly_andThen h fun v => start.setRegW (all _) v
  | ldbStore dst r | ldbStoreBased dst r | ldbStoreImm dst v | ldStore dst r | ldStoreBased dst r | ldStoreImm dst v
  | ldlStore dst r | ldlStoreBased dst r | ldrbStore disp r | ldrStore disp r | ldrlStore disp r =>
    exact start.store (Footprint.covers_of_mem (.head _)) h
  | ldbShort d v | ldctlbRead d => exact .of_next h (start.setByteReg (.head _) _)
  | lda d addr | ldaIndexed d addr x | ldaBased d src | ldar d disp => exact .of_next h (start.loadAddress (all _) _)
  | ldk d n | extsb d => exact .of_next h (start.setReg (.head _) _)
  | ldmLoad d src n => exact changesOnly_ldmLoad (all _) h
  | ldmStore dst r n => exact start.storeRegs (fun j hj => Footprint.covers_word (.head _) hj) h
  | pop dst p | popl dst p => exact changesOnly_popTo (.head _) (List.subset_cons_self _ _) (spans _) h
  | push p src => exact changesOnly_pushFrom (W := .word) (.head _) (.head _) h
  | pushl p src => exact changesOnly_pushFrom (W := .long) (.head _) (.head _) h
  -- Arithmetic
  | adcb d r | adc d r => exact .of_next h (changesOnly_addTo (all _) rfl _ _)
  | sbcb d r | sbc d r => exact .of_next h (changesOnly_subFrom (all _) rfl _ _)
  | addb d src | add d src | addl d src =>
    exact State.changesOnly_andThen h fun v => changesOnly_addTo (all _) rfl v false
  | subb d src | sub d src | subl d src =>
    exact State.changesOnly_andThen h fun v => changesOnly_subFrom (all _) rfl v false
  | cpb d src | cp d src | cpl d src | cpbImm dst v | cpImm dst v =>
    exact State.changesOnly_andThen h fun v => changesOnly_compare rfl _ _
  | dab d => exact .of_next h (changesOnly_decimalAdjust (.head _) rfl)
  | incb dst n | inc dst n | decb dst n | dec dst n =>
    exact State.changesOnly_modify (all _) (spans _) (fun v => s.fcw.arithKeepC_flags _) h
  | mult d src =>
    exact State.changesOnly_andThen h fun v =>
      (start.setLongReg (.head _) (.tail _ (.head _)) _).withFcw (s.fcw.multiplied_flags 16 _)
  | multl d src =>
    exact State.changesOnly_andThen h fun v => (start.setQuadReg (all _) _).withFcw (s.fcw.multiplied_flags 32 _)
  | div d src =>
    exact State.changesOnly_andThen h fun v =>
      (start.setLongReg (.head _) (.tail _ (.head _)) _).withFcwFree (DivCase.flags_flags _ s.fcw s.free) _
  | divl d src =>
    exact State.changesOnly_andThen h fun v =>
      (start.setQuadReg (all _) _).withFcwFree (DivCase.flags_flags _ s.fcw s.free) _
  | exts d => exact .of_next h (start.setLongReg (.head _) (.tail _ (.head _)) _)
  | extsl d => exact .of_next h (start.setQuadReg (all _) _)
  | negb dst | neg dst => exact State.changesOnly_modify (all _) (spans _) (fun v => s.fcw.negate_flags _) h
  -- Logical
  | andb d src | and d src | orb d src | or d src | xorb d src | xor d src =>
    exact State.changesOnly_andThen h fun v => changesOnly_logicTo (all _) rfl _
  | comb dst | com dst => exact changesOnly_complement (all _) (spans _) rfl h
  | testb dst | test dst | testl dst => exact State.changesOnly_andThen h fun v => start.withFcw (s.fcw.logic_flags _ v)
  -- Program control
  | call dst => exact changesOnly_callTo (s.offsetReg_stackReg ▸ .head _) (.head _) (fun _ => .inr (.head _)) h
  | calr p =>
    exact changesOnly_callTo (a := s.relative (-(2 * p.signExtend 16))) (s.offsetReg_stackReg ▸ .head _) (.head _)
      (fun _ => .inl rfl) h
  | dbjnz r p | djnz r p => exact .of_next h (changesOnly_decrementAndJump (all _) p)
  | jp cc dst => exact .of_next h (changesOnly_jumpIf fun _ => .inr (.head _))
  | jr cc p => exact .of_next h (changesOnly_jumpIf fun _ => .inl rfl)
  | ret cc => exact changesOnly_execRet (s.offsetReg_stackReg ▸ .head _) h
  | iret | ldps src => exact Bool.noConfusion hload
  | sc v | epa op x => exact Bool.noConfusion htrap
  -- Bits
  | bitb dst n | bit dst n => exact changesOnly_testBit rfl h
  | bitbDyn d r => exact changesOnly_testBit (W := .byte) (dst := .reg d) rfl h
  | bitDyn d r => exact changesOnly_testBit (W := .word) (dst := .reg d) rfl h
  | resb dst n | res dst n | setb dst n | set dst n => exact changesOnly_readWrite (all _) (spans _) h
  | resbDyn d r | resDyn d r | setbDyn d r | setDyn d r => exact .of_next h (start.setRegW (all _) _)
  | tccb cc d | tcc cc d => exact .of_next h (changesOnly_testCondition cc (all _))
  | tsetb dst | tset dst =>
    exact State.changesOnly_modify (all _) (spans _) (fun v => s.fcw.flagsOnly_refl.setS rfl v.msb) h
  -- Rotates and shifts
  | rlb d twice | rl d twice | rlcb d twice | rlc d twice | rrb d twice | rr d twice | rrcb d twice | rrc d twice =>
    exact .of_next h (changesOnly_rotate (all _) rfl _ _)
  | rldb l r | rrdb l r => exact changesOnly_execDigit (.head _) (.tail _ (.head _)) rfl rfl h
  | sdab d r | sda d r | sdal d r => exact .of_next h (changesOnly_dynamicArith (all _) rfl r)
  | sdlb d r | sdl d r | sdll d r => exact .of_next h (changesOnly_dynamicLogic (all _) rfl r)
  | slab d n | sla d n | slal d n | srab d n | sra d n | sral d n =>
    exact .of_next h (changesOnly_arithShift (all _) rfl _ _ _)
  | sllb d n | sll d n | slll d n | srlb d n | srl d n | srll d n =>
    exact .of_next h (changesOnly_logicShift (all _) rfl _ _)
  -- Block transfer, string compare, translate
  | cpdb d p r cc | cpd d p r cc | cpdrb d p r cc | cpdr d p r cc | cpib d p r cc | cpi d p r cc | cpirb d p r cc
  | cpir d p r cc => exact changesOnly_compareElement (.head _) (.tail _ (.head _)) rfl h
  | cpsdb d p r cc | cpsd d p r cc | cpsdrb d p r cc | cpsdr d p r cc | cpsib d p r cc | cpsi d p r cc
  | cpsirb d p r cc | cpsir d p r cc =>
    exact changesOnly_compareStrings (.head _) (.tail _ (.head _)) (.tail _ (.tail _ (.head _))) rfl h
  | lddb d p r | ldd d p r | lddrb d p r | lddr d p r | ldib d p r | ldi d p r | ldirb d p r | ldir d p r =>
    exact changesOnly_moveElement (.head _) (.tail _ (.head _)) (.tail _ (.tail _ (.head _))) rfl rfl (.head _) h
  | trdb p tbl r | trdrb p tbl r | trib p tbl r | trirb p tbl r =>
    exact changesOnly_translateElement (.head _) (.tail _ (.head _)) (.tail _ (.tail _ (.head _))) rfl rfl (.head _) h
  | trtdb p tbl r | trtdrb p tbl r | trtib p tbl r | trtirb p tbl r =>
    exact changesOnly_translateTest (.head _) (.tail _ (.head _)) (.tail _ (.tail _ (.head _))) rfl rfl h
  -- Input and output
  | inpb d port | inp d port | sinb d port | sin d port =>
    exact changesOnly_privileged htrap h (changesOnly_input (all _) rfl _ _)
  | outb port r | out port r | soutb port r | sout port r =>
    exact changesOnly_privileged htrap h (changesOnly_output rfl _ _)
  | indb d p r | ind d p r | indrb d p r | indr d p r | inib d p r | ini d p r | inirb d p r | inir d p r
  | sindb d p r | sind d p r | sindrb d p r | sindr d p r | sinib d p r | sini d p r | sinirb d p r | sinir d p r =>
    exact changesOnly_inputElement (.head _) (.tail _ (.head _)) rfl rfl rfl (.head _) (effect_of_privileged htrap h)
  | otdrb d p r | otdr d p r | otirb d p r | otir d p r | outdb d p r | outd d p r | outib d p r | outi d p r
  | soutdb d p r | soutd d p r | soutib d p r | souti d p r | sotdrb d p r | sotdr d p r | sotirb d p r | sotir d p r =>
    exact changesOnly_outputElement (.head _) (.tail _ (.head _)) rfl rfl rfl (effect_of_privileged htrap h)
  -- CPU control
  | comflg mask | resflg mask | setflg mask => exact .of_next h (start.withFcw (s.fcw.mapMasked_flags mask _))
  | di vi nvi => exact changesOnly_execDi htrap rfl h
  | ei vi nvi => exact changesOnly_execEi htrap rfl h
  | halt => exact changesOnly_execHalt htrap rfl h
  | ldctlRead d c => exact changesOnly_execLdctlRead htrap (.head _) h
  | ldctlWrite c r =>
    have hc : c ≠ .fcw := by rintro rfl; exact Bool.noConfusion hload
    exact changesOnly_writeCtl htrap hc rfl (effect_of_privileged htrap h)
  | ldctlbWrite r => exact .of_next h (start.withFcw (s.fcw.withFlags_flags _))
  | mbit => exact changesOnly_privileged htrap h (changesOnly_multiMicroBit rfl rfl rfl)
  | mreq d => exact changesOnly_privileged htrap h (changesOnly_multiMicroRequest (.head _) rfl rfl rfl rfl)
  | mres => exact changesOnly_execMres htrap rfl h
  | mset => exact changesOnly_execMset htrap rfl h
  | nop => exact .of_next h start

end Sys2Proof.Machine
end

section
/-! SUPPORT. The instructions that load the whole FCW; and the statements about flags, general and special registers that an
instruction leaves alone. -/

namespace Sys2Proof.Machine

theorem loadsFcw_cases {i : Instr} (h : loadsFcw i = true) :
    i = .iret ∨ (∃ m, i = .ldps m) ∨ ∃ r, i = .ldctlWrite .fcw r := by
  unfold loadsFcw at h
  split at h
  · exact .inl rfl
  · exact .inr (.inl ⟨_, rfl⟩)
  · exact .inr (.inr ⟨_, rfl⟩)
  · cases h

/-- What a return from an exception does: R15 moves, and FCW and PC are loaded. -/
theorem returnFromException_next {s t : State} (h : returnFromException s = .next t) :
    ∃ u f pc, s.ChangesOnly { regs := [15] } u ∧ t = { u with fcw := .ofWord s.par f, pc := pc } ∧
      (s.segmented = false → pc.seg = s.pc.seg) := by
  have h15 : s.offsetReg s.stackReg ∈ [15] := List.mem_singleton.2 s.offsetReg_stackReg
  obtain ⟨⟨f, u⟩, hu, h⟩ := Res.andThen_eq_next.1 h
  have hu : s.ChangesOnly { regs := [15] } u := (State.ChangesOnly.refl.stepPointer h15 2).pop h15 hu
  dsimp only at h
  split at h
  next hseg =>
    obtain ⟨⟨sg, v⟩, hv, h⟩ := Res.andThen_eq_next.1 h
    obtain ⟨⟨off, x⟩, hx, h⟩ := Res.andThen_eq_next.1 h
    cases h
    exact ⟨x, f, _, (hu.pop h15 hv).pop h15 hx, rfl, fun e => absurd (hseg.symm.trans e) (by decide)⟩
  next =>
    obtain ⟨⟨off, v⟩, hv, h⟩ := Res.andThen_eq_next.1 h
    cases h
    exact ⟨v, f, _, hu.pop h15 hv, rfl, fun _ => rfl⟩

/-- What a load of the program status from memory does. -/
theorem loadProgramStatus_next {s t : State} {a : Addr} (h : loadProgramStatus a s = .next t) :
    ∃ f pc, t = { s with fcw := .ofWord s.par f, pc := pc } ∧ (s.segmented = false → pc.seg = s.pc.seg) := by
  unfold loadProgramStatus at h
  split at h
  next hseg =>
    obtain ⟨f, -, h⟩ := Res.andThen_eq_next.1 h
    obtain ⟨sg, -, h⟩ := Res.andThen_eq_next.1 h
    obtain ⟨off, -, h⟩ := Res.andThen_eq_next.1 h
    cases h
    exact ⟨f, _, rfl, fun e => absurd (hseg.symm.trans e) (by decide)⟩
  next =>
    obtain ⟨f, -, h⟩ := Res.andThen_eq_next.1 h
    obtain ⟨off, -, h⟩ := Res.andThen_eq_next.1 h
    cases h
    exact ⟨f, _, rfl, fun _ => rfl⟩

/-- An instruction that loads the whole FCW loads it and the PC; besides, only IRET moves R15. -/
theorem exec_loadsFcw {s t : State} {i : Instr} (htrap : s.traps i = false) (hload : loadsFcw i = true)
    (h : exec i s = .next t) :
    ∃ u f pc, s.ChangesOnly { regs := [15] } u ∧ t = { u with fcw := .ofWord s.par f, pc := pc } ∧
      (s.segmented = false → pc.seg = s.pc.seg) ∧ (i ≠ .iret → u = s) := by
  obtain rfl | ⟨m, rfl⟩ | ⟨r, rfl⟩ := loadsFcw_cases hload
  · have h : execIret s = .next t := h
    unfold execIret at h
    have h := effect_of_privileged htrap h
    obtain ⟨u, f, pc, hu, ht, hpc⟩ := returnFromException_next h
    exact ⟨u, f, pc, hu, ht, hpc, fun hne => absurd rfl hne⟩
  · have h : execLdps m s = .next t := h
    unfold execLdps at h
    have h := effect_of_privileged htrap h
    obtain ⟨f, pc, ht, hpc⟩ := loadProgramStatus_next h
    exact ⟨s, f, pc, .refl, ht, hpc, fun _ => rfl⟩
  · have h : execLdctlWrite .fcw r s = .next t := h
    unfold execLdctlWrite at h
    have h := effect_of_privileged htrap h
    exact ⟨s, s.reg r, s.pc, .refl, (Host.Outcome.next.inj h).symm, fun _ => rfl, fun _ => rfl⟩

/-! ## Which instructions touch what -/

theorem ctlOf_eq_some {i : Instr} {c : CtlReg} (h : ctlOf i = some c) : ∃ r, i = .ldctlWrite c r := by
  unfold ctlOf at h
  split at h
  · cases h; exact ⟨_, rfl⟩
  · cases h

theorem ctlOf_eq_none {i : Instr} (h : ∀ c r, i ≠ .ldctlWrite c r) : ctlOf i = none := by
  unfold ctlOf
  split
  · exact absurd rfl (h _ _)
  · rfl

theorem ctlOf_ne {i : Instr} {c : CtlReg} (h : ∀ r, i ≠ .ldctlWrite c r) : ctlOf i ≠ some c := fun e =>
  let ⟨r, hr⟩ := ctlOf_eq_some e
  h r hr

theorem setsEnables_eq_false {i : Instr} (h : ∀ v n, i ≠ .di v n ∧ i ≠ .ei v n) : setsEnables i = false := by
  unfold setsEnables
  split
  · exact absurd rfl (h _ _).1
  · exact absurd rfl (h _ _).2
  · rfl

theorem drivesMo_eq_false {i : Instr} (hq : ∀ d, i ≠ .mreq d) (hr : i ≠ .mres) (hs : i ≠ .mset) : drivesMo i = false := by
  unfold drivesMo
  split
  · exact absurd rfl (hq _)
  · exact absurd rfl hr
  · exact absurd rfl hs
  · rfl

theorem halts_eq_false {i : Instr} (h : i ≠ .halt) : halts i = false := by
  unfold halts
  split
  · exact absurd rfl h
  · rfl

/-! ## The statements -/

/-- Settles O14: the footprint of an instruction has the flags of its row of the table. -/
theorem flagsOutsideTheTableAreKept : Obligations.FlagsOutsideTheTableAreKept := by
  intro s t i htrap hload h
  have hch := exec_changesOnly htrap hload h
  exact ⟨hch.flags, fun hi => hch.enables (setsEnables_eq_false hi)⟩

theorem State.otherStack_system {s : State} (hs : s.fcw.sys = true) : s.otherStack = (s.nspSeg, s.nspOff) := by
  simp [State.otherStack, State.normal, hs]

/-- In system mode, a change of R15 alone keeps the other registers and the normal-mode copies. -/
theorem State.ChangesOnly.regs_of_r15 {s u : State} (hs : s.fcw.sys = true) (h : s.ChangesOnly { regs := [15] } u) :
    (∀ k : Fin 15, u.regs[k] = s.regs[k]) ∧ u.nspSeg = s.nspSeg ∧ u.nspOff = s.nspOff := by
  have hu : u.fcw.sys = true := h.flags.sys.trans hs
  have hstack : (u.nspSeg, u.nspOff) = (s.nspSeg, s.nspOff) :=
    (State.otherStack_system hu).symm.trans ((h.otherStack rfl).trans (State.otherStack_system hs))
  refine ⟨fun k => ?_, (Prod.ext_iff.1 hstack).1, (Prod.ext_iff.1 hstack).2⟩
  have hk : (BitVec.ofNat 4 k.val).toNat = k.val := by
    rw [BitVec.toNat_ofNat]
    exact Nat.mod_eq_of_lt (by omega)
  have hne : BitVec.ofNat 4 k.val ∉ [(15 : RegNo)] := fun e => by
    have : k.val = 15 := hk.symm.trans (congrArg BitVec.toNat (List.mem_singleton.1 e))
    omega
  have hreg := h.regs _ hne
  rw [State.reg_system hu, State.reg_system hs] at hreg
  simp only [hk] at hreg
  exact hreg

/-- Settles O15: the registers of the footprint are the instruction's destinations; IRET moves R15 of system mode. -/
theorem otherRegistersAreKept : Obligations.OtherRegistersAreKept := by
  intro s t i htrap h
  refine ⟨fun hload => (exec_changesOnly htrap hload h).regs, fun hload hne => ?_, ?_⟩
  · obtain ⟨u, f, pc, -, rfl, -, hu⟩ := exec_loadsFcw htrap hload h
    obtain rfl := hu hne
    exact ⟨rfl, rfl, rfl⟩
  · rintro rfl
    have hs : s.fcw.sys = true := by simpa [State.traps, isPrivileged, State.normal] using htrap
    obtain ⟨u, f, pc, hu, rfl, -⟩ := exec_loadsFcw htrap rfl h
    have hr := hu.regs_of_r15 hs
    exact hr

/-- Settles O16: the special registers outside the footprint are kept, and those that load the FCW touch none. -/
theorem specialRegistersAreKept : Obligations.SpecialRegistersAreKept := by
  intro s t i htrap h
  cases hload : loadsFcw i with
  | false =>
    have hch := exec_changesOnly htrap hload h
    exact ⟨hch.par, hch.nmi, hch.events, hch.resetReq, fun hi => hch.psapSeg (ctlOf_ne hi),
      fun hi => hch.psapOff (ctlOf_ne hi), fun hi => hch.refresh (ctlOf_ne hi), fun hi _ _ => hch.otherStack (ctlOf_eq_none hi),
      fun hq hr hs => hch.mo (drivesMo_eq_false hq hr hs), fun hi => hch.halted (halts_eq_false hi), hch.io, hch.mi⟩
  | true =>
    obtain ⟨u, f, pc, hu, rfl, -⟩ := exec_loadsFcw htrap hload h
    refine ⟨hu.par, hu.nmi, hu.events, hu.resetReq, fun _ => hu.psapSeg nofun, fun _ => hu.psapOff nofun,
      fun _ => hu.refresh nofun, fun hc hi hm => ?_, fun _ _ _ => hu.mo rfl, fun _ => hu.halted rfl, fun _ => hu.io rfl,
      fun _ => hu.mi rfl⟩
    obtain rfl | ⟨m, rfl⟩ | ⟨r, rfl⟩ := loadsFcw_cases hload
    · exact absurd rfl hi
    · exact absurd rfl (hm m)
    · exact absurd rfl (hc _ r)

end Sys2Proof.Machine
end

section
/-! SUPPORT. The invariant: every step keeps it. A change inside a footprint keeps it where the footprint's addresses are legal,
and those of a decoded instruction are; an entry, a load of the FCW and the reset transition keep it as well. -/

namespace Sys2Proof

/-- What the decoder accepts is well-formed. -/
theorem wf_of_decodeWords {seg : Bool} {ws rest : List Word} {i : Instr} (h : decodeWords seg ws = .ok i rest) :
    i.wf seg = true := by
  cases ws with
  | nil => cases h
  | cons w ws =>
    obtain ⟨j, ws', -, h⟩ := Parse.andThen_eq_ok.1 h
    split at h
    next hwf => cases h; exact hwf
    · cases h

end Sys2Proof

namespace Sys2Proof.Machine

/-! ## Places of memory -/

theorem Memory.get_ne_none {m : Memory} {c : Host.Cell} (h : c ∈ m) : m.get c.1 ≠ none := by
  induction m with
  | nil => cases h
  | cons d m ih =>
    unfold Memory.get
    split
    · exact nofun
    next hne =>
      obtain rfl | h := List.mem_cons.1 h
      · exact absurd rfl hne
      · exact ih h

theorem Memory.exists_of_get_ne_none {m : Memory} {n : Nat} (h : m.get n ≠ none) : ∃ c ∈ m, c.1 = n := by
  induction m with
  | nil => exact absurd rfl h
  | cons d m ih =>
    by_cases hd : d.1 = n
    · exact ⟨d, .head _, hd⟩
    · obtain ⟨c, hc, hn⟩ := ih (by simpa [Memory.get, hd] using h)
      exact ⟨c, .tail _ hc, hn⟩

/-- An address is a place of the address space where a Z8002 has no segment number in it. -/
theorem Addr.key_inRange {s : State} {a : Addr} (ha : s.isZ8001 = false → a.seg = 0) :
    a.key < if s.isZ8001 then 8388608 else 65536 := by
  cases hz : s.isZ8001 with
  | true => exact a.key_lt
  | false =>
    have hoff := a.off.isLt
    simp [Addr.key, ha hz]
    omega

section Legal

variable {s t u : State}

theorem State.segmented_eq_false (hz : s.isZ8001 = false) : s.segmented = false := by
  simp [State.segmented, hz]

theorem State.Inv.pcSeg (hs : s.Inv) (hz : s.isZ8001 = false) : s.pc.seg = 0 := by
  have h := hs.pc
  simpa [State.pcLegal, hz] using h

theorem fcwLegal_ofWord (w : Word) : State.fcwLegal { s with fcw := .ofWord s.par w } := by
  intro hr
  have hr : s.par.fcwReserved = .readsBackZero := hr
  cases hv : s.par.variant <;> simp [Fcw.ofWord, State.isZ8001, hr, hv]

/-- A change inside a footprint whose addresses are legal keeps the invariant. -/
theorem State.Inv.of_changesOnly {w : Footprint} (hs : s.Inv) (h : s.ChangesOnly w t)
    (hspans : s.isZ8001 = false → ∀ r ∈ w.spans, r.base.seg = 0) (hsegs : s.isZ8001 = false → ∀ g ∈ w.segs, g = 0) :
    t.Inv where
  memory := h.memWf hs.memory
  range c hc := by
    rw [State.isZ8001_congr h.par]
    by_cases hout : ∀ r ∈ w.spans, ∀ b, r.holds b → b.key ≠ c.1
    · obtain ⟨d, hd, hdc⟩ := Memory.exists_of_get_ne_none (h.mem c.1 hout ▸ Memory.get_ne_none hc)
      exact hdc ▸ hs.range d hd
    · push Not at hout
      obtain ⟨r, hr, b, ⟨i, -, rfl⟩, hb⟩ := hout
      exact hb ▸ Addr.key_inRange fun hz => hspans hz r hr
  pc := by
    unfold State.pcLegal
    rw [State.isZ8001_congr h.par]
    cases hz : s.isZ8001 with
    | true => exact .inl rfl
    | false =>
      obtain e | e := h.pc (State.segmented_eq_false hz)
      · exact .inr (e.trans (hs.pcSeg hz))
      · exact .inr (hsegs hz _ e)
  fcw hr := by
    rw [State.isZ8001_congr h.par, h.flags.rsv.1, h.flags.rsv.2, h.flags.seg]
    exact hs.fcw (h.par ▸ hr)

/-- A loaded FCW and a legal PC keep the invariant. -/
theorem State.Inv.withStatus (hs : s.Inv) {f : Word} {pc : Addr} (hpc : s.isZ8001 = false → pc.seg = 0) :
    State.Inv { s with fcw := .ofWord s.par f, pc := pc } where
  memory := hs.memory
  range := hs.range
  pc := by
    cases hz : s.isZ8001 with
    | true => exact .inl hz
    | false => exact .inr (hpc hz)
  fcw := fcwLegal_ofWord f

/-! ## The addresses of a decoded instruction -/

theorem State.pointer_seg (hn : s.segmented = false) (p : RegNo) : (s.pointer p).seg = s.pc.seg := by
  simp [State.pointer, hn, State.near]

theorem State.pushSpan_seg (hn : s.segmented = false) (p : RegNo) (n : Nat) : (s.pushSpan p n).base.seg = s.pc.seg :=
  State.pointer_seg hn p

theorem State.fieldAddr_seg {a : AddrField} (ha : a.wf false = true) : (s.fieldAddr a).seg = s.pc.seg := by
  cases a with
  | near off => rfl
  | short g off => cases ha
  | long g off => cases ha

theorem State.ea_seg (hn : s.segmented = false) {m : Mem} (hm : m.wf false = true) : (s.ea m).seg = s.pc.seg := by
  cases m with
  | ir p => exact State.pointer_seg hn p
  | da a => exact State.fieldAddr_seg hm
  | x a i => exact State.fieldAddr_seg (Bool.and_eq_true_iff.1 hm).1

theorem State.eaBased_seg (hn : s.segmented = false) (b : Based) : (s.eaBased b).seg = s.pc.seg := by
  cases b with
  | ba p disp => exact State.pointer_seg hn p
  | bx p i => exact State.pointer_seg hn p

theorem State.dstSpan_seg (hn : s.segmented = false) {W : Width} {dst : Dst} (hd : dst.wf false W = true) {r : Span}
    (hr : r ∈ s.dstSpan W dst) : r.base.seg = s.pc.seg := by
  cases dst with
  | reg k => cases hr
  | mem m => cases List.mem_singleton.1 hr; exact State.ea_seg hn hd

/-- In non-segmented mode a well-formed instruction stores in the segment of the PC. -/
theorem State.stores_seg (hn : s.segmented = false) {i : Instr} (hi : i.wf false = true) {r : Span}
    (hr : r ∈ s.stores i) : r.base.seg = s.pc.seg := by
  have one {a : Addr} {n : Nat} (ha : a.seg = s.pc.seg) (hr : r ∈ [Span.mk a n]) : r.base.seg = s.pc.seg :=
    List.mem_singleton.1 hr ▸ ha
  have push (p : RegNo) (n : Nat) (hr : r ∈ [s.pushSpan p n]) : r.base.seg = s.pc.seg :=
    List.mem_singleton.1 hr ▸ State.pushSpan_seg hn p n
  cases i with
  | clrb d | clr d | comb d | com d | negb d | neg d | tsetb d | tset d | incb d n | inc d n | decb d n | dec d n
  | resb d n | res d n | setb d n | set d n | exb k d | ex k d => exact State.dstSpan_seg hn hi hr
  | pop d p | popl d p => exact State.dstSpan_seg hn (Bool.and_eq_true_iff.1 hi).1 hr
  | ldbStore m k | ldbStoreImm m v | ldStore m k | ldStoreImm m v | ldmStore m k n => exact one (State.ea_seg hn hi) hr
  | ldlStore m k => exact one (State.ea_seg hn (Bool.and_eq_true_iff.1 hi).1) hr
  | ldbStoreBased b k | ldStoreBased b k | ldlStoreBased b k => exact one (State.eaBased_seg hn b) hr
  | ldrbStore x k | ldrStore x k | ldrlStore x k => exact one (a := s.eaRelative x) rfl hr
  | push p x => exact push p 2 hr
  | pushl p x => exact push p 4 hr
  | call m | calr p => exact push s.stackReg _ hr
  | lddb d p r | lddrb d p r | ldib d p r | ldirb d p r | ldd d p r | lddr d p r | ldi d p r | ldir d p r
  | trdb d p r | trdrb d p r | trib d p r | trirb d p r
  | indb d p r | indrb d p r | inib d p r | inirb d p r | ind d p r | indr d p r | ini d p r | inir d p r
  | sindb d p r | sindrb d p r | sinib d p r | sinirb d p r | sind d p r | sindr d p r | sini d p r | sinir d p r =>
    exact one (State.pointer_seg hn d) hr
  | _ => exact absurd hr List.not_mem_nil

/-- In non-segmented mode a well-formed CALL or JP goes to the segment of the PC. -/
theorem State.jumpSegs_eq (hn : s.segmented = false) {i : Instr} (hi : i.wf false = true) {g : BitVec 7}
    (hg : g ∈ s.jumpSegs i) : g = s.pc.seg := by
  unfold State.jumpSegs at hg
  split at hg
  · exact (List.mem_singleton.1 hg).trans (State.ea_seg hn hi)
  · exact (List.mem_singleton.1 hg).trans (State.ea_seg hn hi)
  · cases hg

/-! ## Entries -/

theorem State.Inv.systemMode (hs : s.Inv) : s.systemMode.Inv where
  memory := hs.memory
  range := hs.range
  pc := hs.pc
  fcw hr := by
    obtain ⟨hhi, hlo, hseg⟩ := hs.fcw hr
    cases hz : s.isZ8001 with
    | true => exact ⟨hhi, hlo, .inl hz⟩
    | false => exact ⟨hhi, hlo, .inr (by simpa [State.systemMode, hz] using hseg)⟩

theorem State.Inv.entryPush (hs : s.Inv) {v : Word} (h : s.entryPush v = .next t) : t.Inv := by
  have hstack : (s.stepPointer s.stackReg (-2)).stackReg = s.stackReg := by
    simp [State.stackReg, State.stepPointer]
  have ha : (s.stepPointer s.stackReg (-2)).pointer (s.stepPointer s.stackReg (-2)).stackReg =
      (s.pushSpan s.stackReg 2).base := by
    rw [hstack]; exact State.pointer_stepPointer s s.stackReg (-2)
  unfold State.entryPush at h
  dsimp only at h
  rw [ha] at h
  have hch : s.ChangesOnly { regs := [s.offsetReg s.stackReg], spans := [s.pushSpan s.stackReg 2] } t :=
    (State.ChangesOnly.refl.stepPointer (.head _) (-2)).write (W := .word) (Footprint.covers_of_mem (.head _)) h
  refine hs.of_changesOnly hch (fun hz r hr => ?_) (fun _ _ hg => absurd hg List.not_mem_nil)
  have hr : r ∈ [s.pushSpan s.stackReg 2] := hr
  rw [List.mem_singleton.1 hr, State.pushSpan_seg (State.segmented_eq_false hz), hs.pcSeg hz]

theorem State.Inv.pushFrame (hs : s.Inv) {pc : Addr} {fcw id : Word} (h : s.pushFrame pc fcw id = .next t) : t.Inv := by
  obtain ⟨u, hu, h⟩ := Res.andThen_eq_next.1 h
  obtain ⟨v, hv, h⟩ := Res.andThen_eq_next.1 h
  obtain ⟨x, hx, h⟩ := Res.andThen_eq_next.1 h
  have hu : u.Inv := hs.entryPush hu
  have hv : v.Inv := by
    split at hv
    · exact hu.entryPush hv
    · cases hv; exact hu
  exact (hv.entryPush hx).entryPush h

theorem State.readPc_seg (hz : s.isZ8001 = false) {a pc : Addr} (h : s.readPc a = .next pc) : pc.seg = s.pc.seg := by
  unfold State.readPc at h
  rw [hz] at h
  obtain ⟨off, -, h⟩ := Res.andThen_eq_next.1 h
  cases h
  rfl

theorem State.Inv.loadEntry (hs : s.Inv) {k : Entry} {id : Word} (h : s.loadEntry k id = .next t) : t.Inv := by
  obtain ⟨f, -, h⟩ := Res.andThen_eq_next.1 h
  obtain ⟨pc, hpc, h⟩ := Res.andThen_eq_next.1 h
  cases h
  obtain ⟨hmem, hrange, hpc, hfcw⟩ := hs.withStatus (f := f) (pc := pc) fun hz =>
    (State.readPc_seg hz hpc).trans (hs.pcSeg hz)
  exact ⟨hmem, hrange, hpc, hfcw⟩

theorem State.Inv.enter (hs : s.Inv) {k : Entry} {id : Word} {pc : Addr} (h : enter k id pc s = .next t) : t.Inv := by
  obtain ⟨u, hu, h⟩ := Res.andThen_eq_next.1 h
  exact (hs.systemMode.pushFrame hu).loadEntry h

/-! ## Traps -/

/-- A privileged instruction in normal mode is its trap. -/
theorem exec_privileged {i : Instr} (hi : isPrivileged i = true) (hs : s.fcw.sys = false) :
    exec i s = Machine.enter .privileged (instrWord i) (s.trapPc i) s := by
  have trap (i : Instr) (effect : State → Res State) :
      privileged i effect s = Machine.enter .privileged (instrWord i) (s.trapPc i) s := by simp [privileged, hs]
  cases i with
  | di vi nvi | ei vi nvi | halt | iret | ldctlRead d c | ldctlWrite c r | ldps m | mbit | mreq d | mres | mset
  | inpb d port | inp d port | outb port r | out port r | sinb d port | sin d port | soutb port r | sout port r
  | indb d p r | ind d p r | indrb d p r | indr d p r | inib d p r | ini d p r | inirb d p r | inir d p r
  | otdrb d p r | otdr d p r | otirb d p r | otir d p r | outdb d p r | outd d p r | outib d p r | outi d p r
  | sindb d p r | sind d p r | sindrb d p r | sindr d p r | sinib d p r | sini d p r | sinirb d p r | sinir d p r
  | soutdb d p r | soutd d p r | soutib d p r | souti d p r | sotdrb d p r | sotdr d p r | sotirb d p r
  | sotir d p r => unfold exec; exact trap _ _
  | _ => cases hi

end Legal

/-! ## Steps -/

section Steps

variable {s t : State}

/-- An instruction that takes a trap is an entry. -/
theorem enter_of_traps {i : Instr} (htrap : s.traps i = true) (h : exec i s = .next t) :
    ∃ k id pc, enter k id pc s = .next t := by
  unfold State.traps at htrap
  split at htrap
  next v =>
    have h : execSc v s = .next t := h
    unfold execSc at h
    split at h
    · cases h
    · exact ⟨_, _, _, h⟩
  next op x =>
    have h : execEpa op x s = .next t := h
    unfold execEpa at h
    split at h
    · split at h <;> cases h
    · exact ⟨_, _, _, h⟩
  next =>
    obtain ⟨hi, hn⟩ := Bool.and_eq_true_iff.1 htrap
    have hs : s.fcw.sys = false := by simpa [State.normal] using hn
    exact ⟨_, _, _, exec_privileged hi hs ▸ h⟩

/-- A decoded instruction keeps the invariant. -/
theorem State.Inv.exec (hs : s.Inv) {i : Instr} (hi : i.wf s.segmented = true) (h : Machine.exec i s = .next t) :
    t.Inv := by
  have seg0 (hz : s.isZ8001 = false) : s.segmented = false ∧ i.wf false = true :=
    have hn := State.segmented_eq_false hz
    ⟨hn, hn ▸ hi⟩
  cases htrap : s.traps i with
  | true =>
    obtain ⟨k, id, pc, h⟩ := enter_of_traps htrap h
    exact hs.enter h
  | false =>
    cases hload : loadsFcw i with
    | false =>
      exact hs.of_changesOnly (exec_changesOnly htrap hload h)
        (fun hz r hr => (State.stores_seg (seg0 hz).1 (seg0 hz).2 hr).trans (hs.pcSeg hz))
        fun hz g hg => (State.jumpSegs_eq (seg0 hz).1 (seg0 hz).2 hg).trans (hs.pcSeg hz)
    | true =>
      obtain ⟨u, f, pc, hu, rfl, hpc, -⟩ := exec_loadsFcw htrap hload h
      have hinv : u.Inv := hs.of_changesOnly hu (fun _ _ hr => absurd hr List.not_mem_nil)
        fun _ _ hg => absurd hg List.not_mem_nil
      rw [← hu.par]
      exact hinv.withStatus fun hz =>
        have hz : s.isZ8001 = false := (State.isZ8001_congr hu.par).symm.trans hz
        (hpc (State.segmented_eq_false hz)).trans (hs.pcSeg hz)

/-- The boundary after a step keeps the invariant. -/
theorem State.Inv.boundary (ht : t.Inv) {u : State} (h : Machine.boundary s t = .next u) : u.Inv := by
  have latched (nmi : Option Word) : State.Inv { t with events := s.events.tail, nmi := nmi } :=
    ⟨ht.memory, ht.range, ht.pc, ht.fcw⟩
  unfold Machine.boundary at h
  dsimp only at h
  split at h
  · cases h
    exact ⟨ht.memory, ht.range, ht.pc, ht.fcw⟩
  · split at h
    · exact (latched none).enter h
    · exact (latched s.nmiLatch).enter h
    · cases h
      exact latched s.nmiLatch

/-- The PC of the reset locations has no segment number on a Z8002. -/
theorem State.resetPc_seg (hz : s.isZ8001 = false) {pc : Addr} (h : s.resetPc = .next pc) : pc.seg = 0 := by
  obtain ⟨w, -, h⟩ := Res.andThen_eq_next.1 h
  rw [hz] at h
  cases h
  rfl

/-- The reset transition keeps the invariant. -/
theorem State.Inv.resetSequence (hs : s.Inv) (h : Machine.resetSequence s = .next t) : t.Inv := by
  obtain ⟨f, -, h⟩ := Res.andThen_eq_next.1 h
  obtain ⟨pc, hpc, h⟩ := Res.andThen_eq_next.1 h
  cases h
  obtain ⟨hmem, hrange, hpc, hfcw⟩ := hs.withStatus (f := f) (pc := pc) fun hz => State.resetPc_seg hz hpc
  exact ⟨hmem, hrange, hpc, hfcw⟩

/-- The fetch moves the PC, and gives a well-formed instruction. -/
theorem State.fetch_next {i : Instr} (h : s.fetch = .next (i, t)) : i.wf s.segmented = true ∧ ∃ n, t = s.advance n := by
  unfold State.fetch at h
  split at h
  · cases h
  · split at h
    next hdec => cases h; exact ⟨wf_of_decodeWords hdec, _, rfl⟩
    · cases h
    · cases h

end Steps

/-- Settles O10: by the kind of step; the instruction is one the decoder accepts, so its addresses are legal. -/
theorem stepKeepsTheInvariant : Obligations.StepKeepsTheInvariant := by
  intro s t hs h
  unfold step at h
  split at h
  · exact hs.resetSequence h
  · split at h
    · exact hs.boundary h
    · obtain ⟨⟨i, u⟩, hfetch, hrun⟩ := Res.andThen_eq_next.1 h
      obtain ⟨hi, n, rfl⟩ := State.fetch_next hfetch
      have hrun : Res.andThen (exec i (s.advance n)) (boundary s) = .next t := hrun
      obtain ⟨v, hexec, hboundary⟩ := Res.andThen_eq_next.1 hrun
      have hadv : (s.advance n).Inv := ⟨hs.memory, hs.range, hs.pc, hs.fcw⟩
      exact (hadv.exec hi hexec).boundary hboundary

/-- Settles O9: the reset state is data; its memory is empty, its PC and FCW are placeholders without segment and reserved
bits. -/
theorem resetState : Obligations.ResetState :=
  ⟨rfl, rfl, rfl, rfl, rfl, rfl, rfl, reset_memory_wf, fun _ hc => absurd hc List.not_mem_nil, .inr rfl,
    fun _ => ⟨rfl, rfl, .inr rfl⟩⟩

end Sys2Proof.Machine
end

section
/-! SUPPORT. Registers of every width, the two copies of the stack pointer, and the control registers. -/

namespace Sys2Proof.Machine

/-! ## Views -/

theorem byteHome_of_lt {k : RegNo} (h : k.toNat < 8) : k.msb = false ∧ byteHome k = k := by
  revert k; decide

theorem byteHome_of_le {k : RegNo} (h : 8 ≤ k.toNat) : k.msb = true ∧ byteHome k = k - 8 := by
  revert k; decide

theorem add_two_one (k : RegNo) : k + 2 + 1 = k + 3 := by
  rw [BitVec.add_assoc]; rfl

/-- Two pairs of words are four words. -/
theorem append_pairs (a b c d : Word) : ((a ++ b : Long) ++ (c ++ d : Long) : Quad) = a ++ b ++ c ++ d := by
  refine BitVec.eq_of_getLsbD_eq fun i hi => ?_
  simp only [BitVec.getLsbD_append]
  by_cases h16 : i < 16
  · simp [h16, show i < 32 by omega]
  · by_cases h32 : i < 32
    · simp [h16, h32, show i - 16 < 16 by omega]
    · simp [h16, h32, show ¬ i - 16 < 16 by omega, Nat.sub_sub]

/-- Settles O60: the views unfold to the halves and concatenations the rules give. -/
theorem registerViews : Obligations.RegisterViews := by
  intro s k
  refine ⟨fun h => ?_, fun h => ?_, rfl, ?_, rfl, rfl, rfl, rfl⟩
  · obtain ⟨hm, hk⟩ := byteHome_of_lt h
    simp [State.byteReg, hm, hk]
  · obtain ⟨hm, hk⟩ := byteHome_of_le h
    simp [State.byteReg, hm, hk]
  · rw [State.quadReg, State.longReg, State.longReg, add_two_one]
    exact append_pairs _ _ _ _

/-! ## Writes -/

theorem State.reg_setQuadReg (s : State) (k j : RegNo) (v : Quad) :
    (s.setQuadReg k v).reg j =
      if j = k + 3 then (v.extractLsb' 0 32).extractLsb' 0 16 else if j = k + 2 then (v.extractLsb' 0 32).extractLsb' 16 16
      else (s.setLongReg k (v.extractLsb' 32 32)).reg j := by
  rw [State.setQuadReg, State.reg_setLongReg, add_two_one]

theorem State.longReg_congr {s t : State} {k : RegNo} (h0 : t.reg k = s.reg k) (h1 : t.reg (k + 1) = s.reg (k + 1)) :
    t.longReg k = s.longReg k := by
  rw [State.longReg, State.longReg, h0, h1]

theorem quadRegs_ne (k : RegNo) : k ≠ k + 2 ∧ k ≠ k + 3 ∧ k + 1 ≠ k + 2 ∧ k + 1 ≠ k + 3 := by
  revert k; decide

/-- A quadruple write leaves the high pair as the write of that pair has it. -/
theorem State.longReg_setQuadReg_high (s : State) (k : RegNo) (v : Quad) :
    (s.setQuadReg k v).longReg k = v.extractLsb' 32 32 := by
  obtain ⟨n02, n03, n12, n13⟩ := quadRegs_ne k
  rw [State.longReg_congr (s := s.setLongReg k (v.extractLsb' 32 32)) (by rw [State.reg_setQuadReg, if_neg n03, if_neg n02])
    (by rw [State.reg_setQuadReg, if_neg n13, if_neg n12]), State.longReg_setLongReg_same]

theorem State.longReg_setQuadReg_low (s : State) (k : RegNo) (v : Quad) :
    (s.setQuadReg k v).longReg (k + 2) = v.extractLsb' 0 32 := State.longReg_setLongReg_same _ _ _

/-- Settles O18: read after write, width by width. -/
theorem registerWrites : Obligations.RegisterWrites := by
  intro s k
  refine ⟨fun v => ⟨?_, fun j hj => ?_⟩, fun v => ⟨?_, fun j hj => ?_, fun j hj => ?_⟩,
    fun v => ⟨?_, ?_, ?_, fun j h0 h1 => ?_⟩,
    fun v => ⟨?_, s.longReg_setQuadReg_high k v, s.longReg_setQuadReg_low k v, fun j hj => ?_⟩⟩
  · exact s.reg_setReg_same k v
  · exact s.reg_setReg_other v hj
  · rw [State.byteReg_setByteReg, if_pos rfl]
  · rw [State.byteReg_setByteReg, if_neg hj]
  · rw [State.reg_setByteReg, if_neg hj]
  · exact s.longReg_setLongReg_same k v
  · rw [State.reg_setLongReg, if_neg (succ_ne k), if_pos rfl]
  · rw [State.reg_setLongReg, if_pos rfl]
  · rw [State.reg_setLongReg, if_neg h1, if_neg h0]
  · rw [State.quadReg, State.longReg_setQuadReg_high, State.longReg_setQuadReg_low]
    exact append_extract (n := 32) (m := 32) v
  · obtain ⟨h0, h1, h2, h3⟩ : j ≠ k ∧ j ≠ k + 1 ∧ j ≠ k + 2 ∧ j ≠ k + 3 := by simpa [quadRegs] using hj
    rw [State.reg_setQuadReg, if_neg h3, if_neg h2, State.reg_setLongReg, if_neg h1, if_neg h0]

/-! ## Copies of the stack pointer -/

/-- `t` is `s` but for registers, and not for the copies of the other mode. -/
structure State.RegistersOnly (s t : State) : Prop where
  only       : t = { s with regs := t.regs, nspSeg := t.nspSeg, nspOff := t.nspOff }
  otherStack : t.otherStack = s.otherStack

theorem State.registersOnly_setReg (s : State) (k : RegNo) (v : Word) : s.RegistersOnly (s.setReg k v) :=
  ⟨s.setReg_eq k v, s.setReg_otherStack k v⟩

theorem State.RegistersOnly.trans {s t u : State} (h : s.RegistersOnly t) (h' : t.RegistersOnly u) : s.RegistersOnly u where
  only := h'.only.trans (congrArg (fun x : State => { x with regs := u.regs, nspSeg := u.nspSeg, nspOff := u.nspOff }) h.only)
  otherStack := h'.otherStack.trans h.otherStack

theorem State.registersOnly_setRegW (s : State) (W : Width) (k : RegNo) (v : BitVec W.bits) :
    s.RegistersOnly (s.setRegW W k v) := by
  cases W with
  | byte => exact s.registersOnly_setReg _ _
  | word => exact s.registersOnly_setReg k v
  | long => exact (s.registersOnly_setReg k _).trans (State.registersOnly_setReg _ (k + 1) _)

/-- Settles O19: which copy each name is, by the mode; and a write of any width is word register writes. -/
theorem stackPointerCopies : Obligations.StackPointerCopies := by
  intro s
  refine ⟨fun hs => ⟨State.reg_system hs 15, State.reg_system hs 14⟩, fun hs => ?_, fun k h14 h15 => ?_,
    fun W k v => ?_⟩
  · have hn : s.normal = true := by simp [State.normal, hs]
    simp [State.reg, hn]
  · rw [State.reg, if_neg fun h => h15 h.2, if_neg fun h => h14 h.2.2]
  · exact ⟨(s.registersOnly_setRegW W k v).only, (s.registersOnly_setRegW W k v).otherStack⟩


/-! ## The FCW as a word -/

/-- Bit `i` of the FCW word (R30): each field in its place. -/
def Fcw.bit (f : Fcw) (i : Nat) : Bool :=
  match i with
  | 15 => f.seg | 14 => f.sys | 13 => f.epa | 12 => f.vie | 11 => f.nvie
  | 10 => f.rsvHi.getLsbD 2 | 9 => f.rsvHi.getLsbD 1 | 8 => f.rsvHi.getLsbD 0
  | 7 => f.c | 6 => f.z | 5 => f.s | 4 => f.pv | 3 => f.da | 2 => f.h
  | 1 => f.rsvLo.getLsbD 1 | 0 => f.rsvLo.getLsbD 0
  | _ => false

theorem Fcw.getLsbD_toWord (f : Fcw) {i : Nat} (hi : i < 16) : f.toWord.getLsbD i = f.bit i := by
  simp only [Fcw.toWord, Fcw.control, Fcw.flags, BitVec.getLsbD_append, BitVec.getLsbD_ofBool]
  interval_cases i <;> simp [Fcw.bit]

theorem Fcw.toWord_ofWord_written {par : Params} (hp : par.fcwReserved = .readsBackWritten) (w : Word) :
    (Fcw.ofWord par w).toWord = w := by
  refine BitVec.eq_of_getLsbD_eq fun i hi => ?_
  rw [Fcw.getLsbD_toWord _ hi]
  interval_cases i <;> simp [Fcw.bit, Fcw.ofWord, hp]

theorem Fcw.toWord_ofWord_zero {par : Params} (hp : par.fcwReserved = .readsBackZero) (w : Word) :
    (Fcw.ofWord par w).toWord = w &&& if par.variant = .z8001 then 0xF8FC else 0x78FC := by
  refine BitVec.eq_of_getLsbD_eq fun i hi => ?_
  rw [Fcw.getLsbD_toWord _ hi, BitVec.getLsbD_and]
  cases hv : par.variant <;> interval_cases i <;> simp [Fcw.bit, Fcw.ofWord, hp, hv]

theorem Fcw.layout_ofWord (par : Params) (w : Word) : Fcw.Layout par w (.ofWord par w) where
  seg h := by
    obtain h | h := h <;> simp [Fcw.ofWord, h]
  seg0 hv hp := by simp [Fcw.ofWord, hv, hp]
  sys := rfl
  epa := rfl
  vie := rfl
  nvie := rfl
  c := rfl
  z := rfl
  s := rfl
  pv := rfl
  da := rfl
  h := rfl

/-! ## LDCTL in system mode -/

section Ldctl

variable {s : State} (hs : s.fcw.sys = true)

include hs

theorem exec_ldctlRead (k : RegNo) (c : CtlReg) :
    exec (.ldctlRead k c) s = (readCtl c s).andThen fun (v, t) => .next (t.setReg k v) := if_pos hs

theorem exec_ldctlWrite (c : CtlReg) (k : RegNo) : exec (.ldctlWrite c k) s = writeCtl c (s.reg k) s := if_pos hs

end Ldctl

/-- A system-mode register write and a draw of free values go in either order. -/
theorem State.setReg_withFree {s : State} (hs : s.fcw.sys = true) (n : Nat) (k : RegNo) (v : Word) :
    State.setReg { s with free := n } k v = { s.setReg k v with free := n } := by
  have set {t : State} (ht : t.fcw.sys = true) : t.setReg k v = { t with regs := t.regs.set k.toNat v } := by
    simp [State.setReg, State.normal, ht]
  rw [set hs]
  exact set (t := { s with free := n }) hs

/-- The bits that REFRESH is read with: the enable as written, any value in the others (R36). -/
theorem refresh_read (stored x : Word) : stored &&& 0x8000 = (stored &&& 0x8000 ||| x &&& 0x7FFF) &&& 0x8000 := by
  refine BitVec.eq_of_getLsbD_eq fun i hi => ?_
  rw [BitVec.getLsbD_and, BitVec.getLsbD_and, BitVec.getLsbD_or, BitVec.getLsbD_and, BitVec.getLsbD_and]
  interval_cases i <;> simp

/-- Settles O57: in system mode LDCTL is `readCtl` or `writeCtl`, and the FCW is compared with its word bit by bit. -/
theorem controlRegisters : Obligations.ControlRegisters := by
  intro s k hs
  have low (c : CtlReg) (stored reserved : Word) (hc : readCtl c s = .next (s.lowByteRead stored reserved)) :
      ∃ x n, stored &&& 0xFF00 = x &&& 0xFF00 ∧ (stored &&& reserved = 0 → x = stored) ∧
        exec (.ldctlRead k c) s = .next { s.setReg k x with free := n } := by
    obtain ⟨x, n, hx, hhigh, hwhole⟩ := lowByteRead_cases s stored reserved
    refine ⟨x, n, hhigh, hwhole, ?_⟩
    rw [exec_ldctlRead hs, hc, hx, ← State.setReg_withFree hs]
    rfl
  refine ⟨exec_ldctlRead hs k _, exec_ldctlRead hs k _,
      ⟨_, s.free + 1, refresh_read s.refresh (Config.freeValue 16 s.free), ?_⟩,
    low .psapOff s.psapOff 0x00FF rfl, exec_ldctlWrite hs _ k, exec_ldctlWrite hs _ k, exec_ldctlWrite hs _ k,
    exec_ldctlWrite hs _ k, fun hz => ⟨?_, low .psapSeg s.psapSeg 0x80FF (if_pos hz), ?_, ?_⟩, fun hz c hc => ?_,
    fun par w => ⟨fun hp => Fcw.toWord_ofWord_written hp w, fun hp => Fcw.toWord_ofWord_zero hp w,
      Fcw.layout_ofWord par w⟩⟩
  · rw [exec_ldctlRead hs, ← State.setReg_withFree hs]
    rfl
  · rw [exec_ldctlRead hs, readCtl, if_pos hz]
    rfl
  · rw [exec_ldctlWrite hs, writeCtl, if_pos hz]
  · rw [exec_ldctlWrite hs, writeCtl, if_pos hz]
  · rw [exec_ldctlRead hs, exec_ldctlWrite hs]
    obtain rfl | rfl := hc <;> simp [readCtl, writeCtl, hz]

end Sys2Proof.Machine
end

section
/-! SUPPORT. Memory and addresses: the bytes an instruction keeps, the order of an operand's bytes, the accesses that fault,
address arithmetic, and a pop after a push (20_memory.md). -/

namespace Sys2Proof

/-- A bit field of a bit field is a bit field. -/
theorem extract_extract {w : Nat} (v : BitVec w) (j : Nat) {i n m : Nat} (h : i + n ≤ m) :
    (v.extractLsb' j m).extractLsb' i n = v.extractLsb' (j + i) n := by
  refine BitVec.eq_of_getLsbD_eq fun l hl => ?_
  simp only [BitVec.getLsbD_extractLsb', hl, show i + l < m by omega, decide_true, Bool.true_and, Nat.add_assoc]

end Sys2Proof

namespace Sys2Proof.Machine

/-! ## Bytes outside the stores -/

/-- A byte outside the spans of a change's footprint reads as before. -/
theorem State.ChangesOnly.readByte {s t : State} {w : Footprint} (h : s.ChangesOnly w t) {b : Addr}
    (hb : ∀ r ∈ w.spans, ¬r.holds b) : t.readByte b = s.readByte b := by
  have hget : t.mem.get b.key = s.mem.get b.key := h.mem _ fun r hr c hc hkey => hb r hr (Addr.key_inj hkey ▸ hc)
  simp [State.readByte, State.admits, h.par, hget]

/-- Settles O17: the spans of an instruction's footprint are its stores; one that loads the whole FCW stores nothing. -/
theorem otherMemoryIsKept : Obligations.OtherMemoryIsKept := by
  intro s t i htrap h b hb
  cases hload : loadsFcw i with
  | false => exact (exec_changesOnly htrap hload h).readByte hb
  | true =>
    obtain ⟨u, f, pc, hu, rfl, -⟩ := exec_loadsFcw htrap hload h
    calc State.readByte { u with fcw := .ofWord s.par f, pc := pc } b
      _ = u.readByte b := State.readByte_congr rfl rfl b
      _ = s.readByte b := hu.readByte fun _ hr => absurd hr List.not_mem_nil

/-! ## Reading after writing -/

/-- The bytes of an operand lie from its address on, the high-order byte first (20_memory.md R64). -/
theorem State.readByte_of_read {s : State} {W : Width} {a : Addr} {v : BitVec W.bits} (h : s.read W a = .next v) {i : Nat}
    (hi : i < W.bytes) : s.readByte (a.add (BitVec.ofNat 16 i)) = .next (v.extractLsb' (8 * (W.bytes - 1 - i)) 8) := by
  cases W with
  | byte =>
    have hb : s.readByte a = .next v := h
    interval_cases i
    simpa using hb
  | word =>
    obtain ⟨-, hhi, hlo⟩ := State.readWord_eq_next.1 h
    interval_cases i
    · simpa using hhi
    · exact hlo
  | long =>
    obtain ⟨hhigh, hlow⟩ := State.readLong_eq_next.1 h
    obtain ⟨-, h0, h1⟩ := State.readWord_eq_next.1 hhigh
    obtain ⟨-, h2, h3⟩ := State.readWord_eq_next.1 hlow
    rw [Addr.add_add] at h3
    interval_cases i
    · simpa [extract_extract] using h0
    · simpa [extract_extract] using h1
    · simpa [extract_extract] using h2
    · simpa [extract_extract] using h3

/-- Settles O20: a write stores its value, and the value read has its bytes in order. -/
theorem memoryReadAfterWrite : Obligations.MemoryReadAfterWrite := by
  intro s t W a v h
  obtain ⟨honly, hvalue, hrest⟩ := State.stored_of_write h
  exact ⟨honly, hvalue, hrest, fun i hi => State.readByte_of_read hvalue hi⟩

/-! ## Accesses that fault -/

section Faults

variable {s : State} {a : Addr}

theorem State.readWord_odd (h : a.odd = true) : s.readWord a = .fault .oddAddress := if_pos h

theorem State.readLong_odd (h : a.odd = true) : s.readLong a = .fault .oddAddress := by
  rw [State.readLong, State.readWord_odd h, Res.andThen_fault]

theorem State.writeWord_odd (h : a.odd = true) (v : Word) : s.writeWord a v = .fault .oddAddress := if_pos h

theorem State.writeLong_odd (h : a.odd = true) (v : Long) : s.writeLong a v = .fault .oddAddress := by
  rw [State.writeLong, State.writeWord_odd h, Res.andThen_fault]

theorem State.readByte_absent (h : s.admits a = false) : s.readByte a = .fault .absentMemory := by
  simp [State.readByte, h]

theorem State.writeByte_absent (h : s.admits a = false) (v : Byte) : s.writeByte a v = .fault .absentMemory := by
  simp [State.writeByte, h]

theorem State.readByte_unwritten (h : s.admits a = true) (hn : s.mem.get a.key = none) :
    s.readByte a = .fault .unwrittenMemory := by
  simp [State.readByte, h, hn]

/-- A store with a byte in the word right after the instruction faults. -/
theorem State.store_intoNextWord {W : Width} {i : Nat} (hi : i < W.bytes)
    (h : a.add (BitVec.ofNat 16 i) = s.pc ∨ a.add (BitVec.ofNat 16 i) = s.pc.add 1) (v : BitVec W.bits) :
    s.store W a v = .fault .storeIntoNextWord := by
  have htouch : s.touchesNext a W.bytes = true := by
    refine Bool.eq_true_of_not_eq_false fun hf => ?_
    obtain ⟨h0, h1⟩ := State.touchesNext_eq_false.1 hf i hi
    exact h.elim h0 h1
  exact if_pos htouch

end Faults

/-- Settles O21: each kind of access has its own check. -/
theorem badAccessesFault : Obligations.BadAccessesFault := fun _ _ =>
  ⟨fun ho => ⟨State.readWord_odd ho, State.readLong_odd ho, State.writeWord_odd ho, State.writeLong_odd ho⟩,
    fun ha => ⟨State.readByte_absent ha, State.writeByte_absent ha⟩, State.readByte_unwritten,
    fun _ v _ hi h => State.store_intoNextWord hi h v⟩

/-! ## Address arithmetic -/

theorem Addr.toNat_add_off (a : Addr) (k : Word) : (a.add k).off.toNat = (a.off.toNat + k.toNat) % 65536 :=
  BitVec.toNat_add _ _

theorem State.pointer_nonsegmented {s : State} (h : s.segmented = false) (p : RegNo) :
    s.pointer p = ⟨s.pc.seg, s.reg p⟩ := by
  simp [State.pointer, h, State.near]

/-- In segmented mode a pointer is a pair: the segment in bits 30 to 24, the offset in the low-order word (R72). -/
theorem State.pointer_segmented {s : State} (h : s.segmented = true) (p : RegNo) :
    s.pointer p = ⟨(s.longReg p).extractLsb' 24 7, (s.longReg p).extractLsb' 0 16⟩ := by
  have hseg : (s.longReg p).extractLsb' 24 7 = (s.reg p).extractLsb' 8 7 :=
    BitVec.extractLsb'_append_eq_of_le (w := 16) (by decide)
  have hoff : (s.longReg p).extractLsb' 0 16 = s.reg (p + 1) := extract_append_low _ _
  rw [State.pointer, if_pos h, hseg, hoff]
  rfl

theorem State.advance_off (s : State) (n : Nat) :
    (s.advance n).pc.off.toNat = (s.pc.off.toNat + 2 * n) % 65536 := by
  rw [State.advance_pc, Addr.toNat_add_off, BitVec.toNat_ofNat, Nat.add_mod_mod]

theorem State.fieldAddr_short (s : State) (g : BitVec 7) (o : Byte) : s.fieldAddr (.short g o) = ⟨g, o.setWidth 16⟩ :=
  congrArg (Addr.mk g) (BitVec.setWidth_eq_append (v := 8) (w := 16) (by decide)).symm

/-- Settles O22: every sum is `Addr.add`, and a pointer or an address field is read off by the mode. -/
theorem addressArithmetic : Obligations.AddressArithmetic := fun s a k n =>
  ⟨a.add_seg k, a.toNat_add_off k, fun p => s.pointer_stepPointer p k, rfl, s.pc.add_seg _, s.advance_off n,
    fun _ _ => rfl, fun _ _ => rfl, fun _ _ => rfl, fun hn p _ => ⟨State.pointer_nonsegmented hn p, rfl⟩,
    fun hs p g o _ => ⟨State.pointer_segmented hs p, s.fieldAddr_short g o, rfl⟩⟩

/-! ## A pop after a push -/

/-- A register write, in the mode of another state. -/
theorem State.setReg_of_mode {s t : State} (hn : t.normal = s.normal) (hz : t.isZ8001 = s.isZ8001) (k : RegNo) (v : Word) :
    t.setReg k v =
      if s.normal ∧ k = 15 then { t with nspOff := v }
      else if s.normal ∧ s.isZ8001 ∧ k = 14 then { t with nspSeg := v }
      else { t with regs := t.regs.set k.toNat v } := by
  rw [State.setReg, hn, hz]

theorem State.setReg_setReg_same (s : State) (k : RegNo) (v x : Word) : (s.setReg k v).setReg k x = s.setReg k x := by
  rw [State.setReg_of_mode (s.setReg_normal k v) (s.setReg_isZ8001 k v), State.setReg_of_mode rfl rfl k x,
    State.setReg]
  split
  · rfl
  · split
    · rfl
    · rw [Vector.set_set]

theorem State.setReg_withMem (s : State) (m : Memory) (k : RegNo) (v : Word) :
    State.setReg { s with mem := m } k v = { s.setReg k v with mem := m } := by
  rw [State.setReg_of_mode (s := s) (t := { s with mem := m }) rfl rfl, State.setReg]
  by_cases h15 : s.normal = true ∧ k = 15
  · simp only [if_pos h15]
  · by_cases h14 : s.normal = true ∧ s.isZ8001 = true ∧ k = 14
    · simp only [if_neg h15, if_pos h14]
    · simp only [if_neg h15, if_neg h14]

theorem State.setReg_reg (s : State) (k : RegNo) : s.setReg k (s.reg k) = s := by
  unfold State.setReg State.reg
  split
  · rfl
  · split
    · rfl
    · rw [Vector.set_getElem_self]

/-- A pointer moved and moved back is the pointer as it was, and so is every other register. -/
theorem State.stepPointer_neg (s : State) (p : RegNo) (k : Word) : (s.stepPointer p (-k)).stepPointer p k = s := by
  have hoff : (s.stepPointer p (-k)).offsetReg p = s.offsetReg p := by simp [State.offsetReg, State.stepPointer]
  have hreg : (s.stepPointer p (-k)).reg (s.offsetReg p) + k = s.reg (s.offsetReg p) := by
    simp [State.stepPointer]
  rw [State.stepPointer, hoff, hreg, State.stepPointer, State.setReg_setReg_same, State.setReg_reg]

theorem State.pointer_withMem (s : State) (m : Memory) (p : RegNo) : State.pointer { s with mem := m } p = s.pointer p := rfl

theorem State.stepPointer_withMem (s : State) (m : Memory) (p : RegNo) (k : Word) :
    State.stepPointer { s with mem := m } p k = { s.stepPointer p k with mem := m } :=
  s.setReg_withMem m _ _

/-- A push that goes through moves the pointer down and stores the value where it then points. -/
theorem State.stored_of_push {s t : State} {W : Width} {p : RegNo} {v : BitVec W.bits} (h : s.push W p v = .next t) :
    (s.stepPointer p (-(BitVec.ofNat 16 W.bytes))).Stored W
      ((s.stepPointer p (-(BitVec.ofNat 16 W.bytes))).pointer p) v t :=
  State.stored_of_write (State.store_eq_next.1 h).2

/-- Settles O23: the pop reads where the push stored, and moves the pointer back. -/
theorem popAfterPush : Obligations.PopAfterPush := by
  intro s t W p v _ h
  obtain ⟨honly, hvalue, -⟩ := State.stored_of_push h
  have hpointer : t.pointer p = (s.stepPointer p (-(BitVec.ofNat 16 W.bytes))).pointer p := by
    rw [honly, State.pointer_withMem]
  have hback : t.stepPointer p (BitVec.ofNat 16 W.bytes) = { s with mem := t.mem } := by
    rw [honly, State.stepPointer_withMem, State.stepPointer_neg]
  rw [State.pop, hpointer, hvalue, Res.andThen_next, hback]

end Sys2Proof.Machine
end

section
/-! SUPPORT. Taking an exception: what the pushes of an entry leave in memory, and the state after an entry that can be made
(60_exceptions.md R345). -/

namespace Sys2Proof.Machine

/-! ## Reads that depend on a few bytes -/

section Reads

variable {s t : State} {a : Addr}

theorem State.readWord_congr
    (h : ∀ i < 2, t.readByte (a.add (BitVec.ofNat 16 i)) = s.readByte (a.add (BitVec.ofNat 16 i))) :
    t.readWord a = s.readWord a := by
  have h0 : t.readByte a = s.readByte a := Addr.add_zero a ▸ h 0 (by decide)
  have h1 : t.readByte (a.add 1) = s.readByte (a.add 1) := h 1 (by decide)
  rw [State.readWord, State.readWord, h0, h1]

theorem State.readPc_congr (hp : t.par = s.par) (hpc : t.pc = s.pc)
    (h : ∀ i < 4, t.readByte (a.add (BitVec.ofNat 16 i)) = s.readByte (a.add (BitVec.ofNat 16 i))) :
    t.readPc a = s.readPc a := by
  have hfirst : t.readWord a = s.readWord a := State.readWord_congr fun i hi => h i (by omega)
  have hsecond : t.readWord (a.add 2) = s.readWord (a.add 2) := State.readWord_congr fun i hi => by
    have hadd : (a.add 2).add (BitVec.ofNat 16 i) = a.add (BitVec.ofNat 16 (2 + i)) := by
      rw [Addr.add_add, BitVec.ofNat_add]
      rfl
    rw [hadd]
    exact h (2 + i) (by omega)
  rw [State.readPc, State.readPc, State.isZ8001_congr hp, hfirst, hsecond]
  simp only [State.near, hpc]

end Reads

/-! ## Addresses below a stack pointer -/

/-- The address `k` bytes below `a`. -/
def Addr.below (a : Addr) (k : Nat) : Addr := a.add (-(BitVec.ofNat 16 k))

theorem Addr.below_zero (a : Addr) : a.below 0 = a := Addr.add_zero a

theorem Addr.below_below (a : Addr) (k l : Nat) : (a.below k).below l = a.below (k + l) := by
  rw [Addr.below, Addr.below, Addr.below, Addr.add_add, BitVec.ofNat_add, BitVec.neg_add, BitVec.sub_eq_add_neg]

theorem Addr.below_add (a : Addr) {j k : Nat} (h : j ≤ k) : (a.below k).add (BitVec.ofNat 16 j) = a.below (k - j) := by
  obtain ⟨l, rfl⟩ := Nat.exists_eq_add_of_le' h
  rw [← Addr.below_below, Addr.below, Addr.add_add, BitVec.add_comm, BitVec.add_right_neg, Nat.add_sub_cancel]
  exact Addr.add_zero _

theorem Addr.below_inj {a : Addr} {k l : Nat} (hk : k < 65536) (hl : l < 65536) (h : a.below k = a.below l) : k = l := by
  have h := congrArg BitVec.toNat (BitVec.neg_inj.1 ((Addr.add_inj a _ _).1 h))
  simpa [Nat.mod_eq_of_lt hk, Nat.mod_eq_of_lt hl] using h

theorem Addr.odd_below_two (a : Addr) : (a.below 2).odd = a.odd := by
  have h := Addr.odd_add_two (a.below 2)
  rw [show (a.below 2).add 2 = a from (Addr.below_add a (Nat.le_refl 2)).trans a.below_zero] at h
  exact h.symm

/-! ## The pushes of an entry -/

/-- The mode in which an entry pushes: system mode, and segmented on a Z8001 (60_exceptions.md R345). -/
structure State.EntryMode (s : State) : Prop where
  sys       : s.fcw.sys = true
  segmented : s.segmented = s.isZ8001

theorem State.systemMode_entryMode (s : State) : s.systemMode.EntryMode where
  sys := rfl
  segmented := by cases hz : s.isZ8001 <;> simp_all [State.segmented, State.isZ8001]

/-- The system stack has room for `n` words in memory: the stack pointer is even and the bytes below it are admitted. -/
structure State.CanPush (s : State) (n : Nat) : Prop where
  mode     : s.EntryMode
  even     : s.systemStack.odd = false
  admitted : ∀ k, 0 < k → k ≤ 2 * n → s.admits (s.systemStack.below k) = true

/-- `t` is `s` with the words `ws` pushed onto the system stack, the first of them at the highest address. -/
structure State.Pushed (s : State) (ws : List Word) (t : State) : Prop where
  only  : t = { s with regs := s.regs.set 15 (s.regs[15] - BitVec.ofNat 16 (2 * ws.length)), mem := t.mem }
  words : ∀ i (h : i < ws.length), t.readWord (s.systemStack.below (2 * (i + 1))) = .next ws[i]
  rest  : ∀ b : Addr, (∀ k, 0 < k → k ≤ 2 * ws.length → b ≠ s.systemStack.below k) → t.readByte b = s.readByte b

section Pushes

variable {s t u : State}

theorem State.Pushed.par {ws : List Word} (h : s.Pushed ws t) : t.par = s.par := by rw [h.only]

theorem State.Pushed.fcw {ws : List Word} (h : s.Pushed ws t) : t.fcw = s.fcw := by rw [h.only]

theorem State.Pushed.entryMode {ws : List Word} (h : s.Pushed ws t) (hm : s.EntryMode) : t.EntryMode where
  sys := h.fcw ▸ hm.sys
  segmented := by
    have hseg := hm.segmented
    simpa only [State.segmented, State.isZ8001, h.par, h.fcw] using hseg

theorem State.Pushed.systemStack {ws : List Word} (h : s.Pushed ws t) :
    t.systemStack = s.systemStack.below (2 * ws.length) := by
  rw [h.only]
  cases hz : s.par.variant <;>
    simp [State.systemStack, State.isZ8001, hz, Addr.below, Addr.add, Addr.ofWords, BitVec.sub_eq_add_neg]

/-- Words pushed after others are below them. -/
theorem State.Pushed.trans {ws xs : List Word} (h : s.Pushed ws t) (h' : t.Pushed xs u)
    (hlen : 2 * (ws.length + xs.length) < 65536) : s.Pushed (ws ++ xs) u where
  only := by
    have hr : t.regs = s.regs.set 15 (s.regs[15] - BitVec.ofNat 16 (2 * ws.length)) := by rw [h.only]
    rw [h'.only, hr, h.only]
    simp [Nat.mul_add, BitVec.ofNat_add, sub_sub]
  words i hi := by
    rw [List.length_append] at hi
    by_cases hw : i < ws.length
    · rw [List.getElem_append_left hw, ← h.words i hw]
      refine State.readWord_congr fun j hj => h'.rest _ fun k hk hkx e => ?_
      rw [Addr.below_add _ (by omega), h.systemStack, Addr.below_below] at e
      have := Addr.below_inj (by omega) (by omega) e
      omega
    · rw [List.getElem_append_right (by omega), ← h'.words (i - ws.length) (by omega), h.systemStack, Addr.below_below]
      congr 2
      omega
  rest b hb := by
    rw [List.length_append] at hb
    rw [h'.rest b fun k hk hkx => ?_, h.rest b fun k hk hkw => hb k hk (by omega)]
    rw [h.systemStack, Addr.below_below]
    exact hb _ (by omega) (by omega)

theorem State.EntryMode.pointer (hm : s.EntryMode) : s.pointer s.stackReg = s.systemStack := by
  unfold State.pointer State.stackReg State.systemStack
  rw [hm.segmented]
  cases s.isZ8001 <;> simp [State.reg_system hm.sys, State.near]

/-- In the mode of an entry a push moves R15 and writes the word below the stack pointer. -/
theorem State.EntryMode.entryPush (hm : s.EntryMode) (v : Word) :
    s.entryPush v = State.write { s with regs := s.regs.set 15 (s.regs[15] - 2) } .word (s.systemStack.below 2) v := by
  have hstack : (s.stepPointer s.stackReg (-2)).stackReg = s.stackReg := by simp [State.stackReg, State.stepPointer]
  have hstep : s.stepPointer s.stackReg (-2) = { s with regs := s.regs.set 15 (s.regs[15] - 2) } := by
    rw [State.stepPointer, State.offsetReg_stackReg, State.reg_system hm.sys, ← sub_eq_add_neg]
    simp [State.setReg, State.normal, hm.sys]
  rw [State.entryPush, hstack, State.pointer_stepPointer, hm.pointer, hstep]
  rfl

/-- One push of an entry. -/
theorem State.CanPush.entryPush {n : Nat} (h : s.CanPush (n + 1)) (v : Word) :
    ∃ t, s.entryPush v = .next t ∧ s.Pushed [v] t ∧ t.CanPush n := by
  obtain ⟨hm, heven, hadmit⟩ := h
  obtain ⟨t, ht⟩ : ∃ t, s.entryPush v = .next t := by
    rw [hm.entryPush]
    refine State.write_next (W := .word) v (.inr ((Addr.odd_below_two _).trans heven)) fun i hi => ?_
    have hi : i < 2 := hi
    rw [Addr.below_add _ (Nat.le_of_lt hi)]
    exact hadmit (2 - i) (Nat.sub_pos_of_lt hi) (by omega)
  obtain ⟨honly, hvalue, hrest⟩ := State.stored_of_write ((hm.entryPush v).symm.trans ht)
  have hpushed : s.Pushed [v] t := by
    refine ⟨honly, fun i hi => ?_, fun b hb => hrest b fun i hi => ?_⟩
    · obtain rfl : i = 0 := by simpa using hi
      exact hvalue
    · have hi : i < 2 := hi
      rw [Addr.below_add _ (Nat.le_of_lt hi)]
      exact hb _ (Nat.sub_pos_of_lt hi) (Nat.sub_le 2 i)
  refine ⟨t, ht, hpushed, hpushed.entryMode hm, ?_, fun k hk hkn => ?_⟩
  · rw [hpushed.systemStack]
    exact (Addr.odd_below_two _).trans heven
  · rw [hpushed.systemStack, Addr.below_below, State.admits, hpushed.par]
    exact hadmit _ (Nat.add_pos_right _ hk) (by simp; omega)

/-- The words of the frame an entry pushes, the PC first. -/
def State.frameWords (s : State) (pc : Addr) (fcw id : Word) : List Word :=
  if s.isZ8001 then [pc.off, pc.segWord, fcw, id] else [pc.off, fcw, id]

theorem State.length_frameWords (s : State) (pc : Addr) (fcw id : Word) :
    2 * (s.frameWords pc fcw id).length = s.frameSize := by
  unfold State.frameWords State.frameSize
  cases s.isZ8001 <;> rfl

theorem State.pushFrame_pushed {pc : Addr} {fcw id : Word} (h : s.CanPush (s.frameWords pc fcw id).length) :
    ∃ t, s.pushFrame pc fcw id = .next t ∧ s.Pushed (s.frameWords pc fcw id) t := by
  unfold State.frameWords at *
  unfold State.pushFrame
  cases hz : s.isZ8001 with
  | true =>
    rw [hz] at h
    obtain ⟨t, ht, hpt, h⟩ := h.entryPush pc.off
    obtain ⟨u, hu, hpu, h⟩ := h.entryPush pc.segWord
    obtain ⟨x, hx, hpx, h⟩ := h.entryPush fcw
    obtain ⟨y, hy, hpy, -⟩ := h.entryPush id
    refine ⟨y, ?_, ((hpt.trans hpu (by simp)).trans hpx (by simp)).trans hpy (by simp)⟩
    simp [ht, (State.isZ8001_congr hpt.par).trans hz, hu, hx, hy]
  | false =>
    rw [hz] at h
    obtain ⟨t, ht, hpt, h⟩ := h.entryPush pc.off
    obtain ⟨x, hx, hpx, h⟩ := h.entryPush fcw
    obtain ⟨y, hy, hpy, -⟩ := h.entryPush id
    refine ⟨y, ?_, (hpt.trans hpx (by simp)).trans hpy (by simp)⟩
    simp [ht, (State.isZ8001_congr hpt.par).trans hz, hx, hy]

end Pushes

/-! ## The state after an entry -/

section Entry

variable {s t : State} {k : Entry} {id fcw f : Word} {pc p : Addr}

theorem State.frame_add (s : State) {j : Nat} (hj : j ≤ s.frameSize) :
    s.frame.add (BitVec.ofNat 16 j) = s.systemStack.below (s.frameSize - j) := s.systemStack.below_add hj

/-- The bytes of the frame are those below the system stack pointer. -/
theorem State.below_eq_frame_add (s : State) {k : Nat} (hk : 0 < k) (hkn : k ≤ s.frameSize) :
    ∃ j < s.frameSize, s.systemStack.below k = s.frame.add (BitVec.ofNat 16 j) :=
  ⟨s.frameSize - k, by omega, by rw [s.frame_add (Nat.sub_le _ _), Nat.sub_sub_self hkn]⟩

/-- The frame of an entry that can be made has room on the system stack. -/
theorem State.CanEnter.canPush (h : s.CanEnter k id f p) (pc : Addr) (fcw : Word) :
    s.systemMode.CanPush (s.frameWords pc fcw id).length where
  mode := s.systemMode_entryMode
  even := h.even
  admitted n hn hlen := by
    obtain ⟨j, hj, hat⟩ := s.below_eq_frame_add hn (s.length_frameWords pc fcw id ▸ hlen)
    have hb := hat ▸ h.admitted j hj
    exact hb

/-- After the pushes of an entry, a byte outside the frame reads as before. -/
theorem State.Pushed.readByte_of_ne (h : s.systemMode.Pushed (s.frameWords pc fcw id) t) {b : Addr}
    (hb : ∀ j < s.frameSize, b ≠ s.frame.add (BitVec.ofNat 16 j)) : t.readByte b = s.readByte b := by
  refine h.rest b fun n hn hlen e => ?_
  obtain ⟨j, hj, hat⟩ := s.below_eq_frame_add hn (s.length_frameWords pc fcw id ▸ hlen)
  exact hb j hj (e.trans hat)

/-- After the pushes of an entry, the frame holds the identifier, the FCW and the PC. -/
theorem State.Pushed.frame (h : s.systemMode.Pushed (s.frameWords pc fcw id) t) :
    t.readWord s.frame = .next id ∧ t.readWord (s.frame.add 2) = .next fcw ∧
      (s.isZ8001 = true → t.readWord (s.frame.add 4) = .next pc.segWord) ∧
      t.readWord (s.frame.add (if s.isZ8001 then 6 else 4)) = .next pc.off := by
  have hframe : s.frame = s.systemStack.below s.frameSize := rfl
  have hadd {j : Nat} (hj : j ≤ s.frameSize) := s.frame_add hj
  cases hz : s.isZ8001 with
  | true =>
    rw [show s.frameWords pc fcw id = [pc.off, pc.segWord, fcw, id] from if_pos hz] at h
    rw [show s.frameSize = 8 from if_pos hz] at hframe hadd
    refine ⟨hframe ▸ h.words 3 (by simp), ?_, fun _ => ?_, ?_⟩
    · exact (hadd (j := 2) (by decide)) ▸ h.words 2 (by simp)
    · exact (hadd (j := 4) (by decide)) ▸ h.words 1 (by simp)
    · exact (hadd (j := 6) (by decide)) ▸ h.words 0 (by simp)
  | false =>
    rw [show s.frameWords pc fcw id = [pc.off, fcw, id] from by simp [State.frameWords, hz]] at h
    rw [show s.frameSize = 6 from by simp [State.frameSize, hz]] at hframe hadd
    refine ⟨hframe ▸ h.words 2 (by simp), ?_, nofun, ?_⟩
    · exact (hadd (j := 2) (by decide)) ▸ h.words 1 (by simp)
    · exact (hadd (j := 4) (by decide)) ▸ h.words 0 (by simp)

/-- An entry that can be made is made, whatever PC it saves. -/
theorem State.CanEnter.entered (h : s.CanEnter k id f p) (pc : Addr) :
    ∃ t, enter k id pc s = .next t ∧ s.Entered id pc f p t := by
  obtain ⟨t, ht, hp⟩ : ∃ t, s.systemMode.pushFrame pc s.fcw.toWord id = .next t ∧
      s.systemMode.Pushed (s.frameWords pc s.fcw.toWord id) t := State.pushFrame_pushed (h.canPush pc s.fcw.toWord)
  have hfcw : t.readWord (s.psaBase.add (k.fcwOffset s.par.variant)) = .next f := by
    rw [← h.newFcw]
    refine State.readWord_congr fun i hi => hp.readByte_of_ne fun j hj => ?_
    rw [Addr.add_add]
    exact h.fcwApart j hj i hi
  have hpc : t.readPc (s.psaBase.add (k.pcOffset s.par.variant id)) = .next p := by
    rw [← h.newPc]
    refine State.readPc_congr hp.par (by rw [hp.only]; rfl) fun i hi => hp.readByte_of_ne fun j hj => ?_
    rw [Addr.add_add]
    exact h.pcApart j hj i hi
  have hpar : t.par = s.par := hp.par
  have hpsa : t.psaBase = s.psaBase := by rw [hp.only]; rfl
  refine ⟨{ t with fcw := .ofWord s.par f, pc := p, halted := false }, ?_, ?_⟩
  · rw [enter, ht, Res.andThen_next, State.loadEntry, hpsa, hpar, hfcw, Res.andThen_next, hpc, Res.andThen_next]
  · obtain ⟨hid, hstatus, hpcSeg, hpcOff⟩ := hp.frame
    refine ⟨?_, hid, hstatus, hpcSeg, hpcOff, fun b hb => hp.readByte_of_ne hb⟩
    rw [hp.only, s.length_frameWords]
    rfl

end Entry

end Sys2Proof.Machine
end

section
/-! SUPPORT. The fetch that stops, and the boundary that accepts an event or none (60_exceptions.md R343); the steps that
run no instruction. -/

namespace Sys2Proof.Machine

/-! ## The boundary -/

section Boundary

variable {s t : State} {id : Word}

theorem enabled_self (par : Params) (b : Bool) : enabled par b b = b := by
  unfold enabled
  cases par.eiDelay with
  | zero => rfl
  | one => exact Bool.and_self b

/-- A latched NMI is accepted before everything else. -/
theorem boundary_of_nmi (hr : s.request.reset = false) (hid : s.nmiLatch = some id) :
    boundary s t = enter .nmi id t.pc { t with events := s.events.tail, nmi := none } := by
  simp [boundary, accepted, hr, hid]

section NoNmi

variable (hr : s.request.reset = false) (hl : s.nmiLatch = none) (hsegt : s.isZ8001 = true → s.request.segt = none)

theorem segmentTrap_eq_none (hsegt : s.isZ8001 = true → s.request.segt = none) :
    (if s.isZ8001 then s.request.segt else none) = none := by
  split
  next hz => exact hsegt hz
  · rfl

include hr hl hsegt

/-- An enabled VI is accepted when no NMI and no segment trap comes before it. -/
theorem boundary_of_vi (hvi : s.request.vi = some id) (he : enabled s.par s.fcw.vie t.fcw.vie = true) :
    boundary s t = enter .vi id t.pc { t with events := s.events.tail, nmi := none } := by
  have hacc : accepted s t = some (.vi, id) := by
    unfold accepted
    rw [hl, segmentTrap_eq_none hsegt, hvi]
    cases s.request.nvi <;> simp [he]
  simp [boundary, hr, hacc, hl]

/-- With nothing presented that can be accepted, the boundary uses up what is presented. -/
theorem boundary_of_none (hvi : s.request.vi ≠ none → enabled s.par s.fcw.vie t.fcw.vie = false)
    (hnvi : s.request.nvi ≠ none → enabled s.par s.fcw.nvie t.fcw.nvie = false) :
    boundary s t = .next { t with events := s.events.tail, nmi := none } := by
  have hacc : accepted s t = none := by
    unfold accepted
    rw [hl, segmentTrap_eq_none hsegt]
    dsimp only
    split
    next hv _ => rw [hvi (by simp [hv])]; rfl
    next hv hn => rw [hvi (by simp [hv]), hnvi (by simp [hn])]; rfl
    next hn => rw [hnvi (by simp [hn])]; rfl
    · rfl
  simp [boundary, hr, hacc, hl]

end NoNmi

end Boundary

/-! ## The fetch that stops -/

section Fetch

variable {s : State} (hr : s.resetReq = false) (hh : s.halted = false)

include hr hh

theorem step_of_oddPc (hpc : s.pc.odd = true) : step s = .fault .oddPc := by
  simp [step, hr, hh, State.fetch, hpc]

theorem step_of_bad (hpc : s.pc.odd = false) (hbad : decode s.segmented s.fetchBytes = .bad) :
    step s = .refused .undefinedEncoding := by
  simp [step, hr, hh, State.fetch, hpc, hbad]

end Fetch

/-- Settles O7: the fetch stops, or the halted machine is at its boundary, where an entry that can be made is made. -/
theorem stepsWithoutAnInstruction : Obligations.StepsWithoutAnInstruction := by
  intro s hr
  refine ⟨fun hh => step_of_oddPc hr hh, fun hh => step_of_bad hr hh, step_of_halted s hr, ?_, ?_⟩
  · rintro hh hreset u id f p rfl
    rw [step_of_halted s hr hh]
    refine ⟨fun hid hent => ?_, fun hl hsegt hvi hvie hent => ?_⟩
    · rw [boundary_of_nmi hreset hid]
      exact hent.entered s.pc
    · rw [boundary_of_vi hreset hl hsegt hvi ((enabled_self _ _).trans hvie)]
      exact hent.entered s.pc
  · intro hh hnmi hreset hedge hsegt hvi hnvi
    have hl : s.nmiLatch = none := by rw [State.nmiLatch, hedge, hnmi]; rfl
    rw [step_of_halted s hr hh, boundary_of_none hreset hl hsegt (fun h => (enabled_self _ _).trans (hvi h))
      fun h => (enabled_self _ _).trans (hnvi h)]
    rw [← hnmi]

end Sys2Proof.Machine
end

section
/-! SUPPORT. The encoding's round trip, the words written out from the spec, and the condition codes (30_encoding.md R90 to R124,
R110). -/

namespace Sys2Proof

/-- Settles O2: every well-formed instruction is read back from its words. -/
theorem decodeOfEncodeIsTheInstruction : Obligations.DecodeOfEncodeIsTheInstruction :=
  fun _ _ rest hwf => decodeWords_encode hwf rest

/-- Settles O1: on each of the closed lists of words the decoder evaluates to the instruction. -/
theorem specWordsDecode : Obligations.SpecWordsDecode := by
  unfold Obligations.SpecWordsDecode
  decide

end Sys2Proof

namespace Sys2Proof.Machine

/-- Inverting bit 3 of a condition's code negates the condition (30_encoding.md R110). -/
theorem condHolds_code_xor_eight (f : Fcw) (cc : Cond) :
    condHolds f (.ofCode (cc.code ^^^ 0b1000)) = !condHolds f cc := by
  cases cc <;> simp [Cond.code, Cond.ofCode, condHolds]

/-- Settles O24: each code names its condition, and every code is the code of a condition. -/
theorem conditionCodes : Obligations.ConditionCodes := by
  intro f
  refine ⟨rfl, rfl, rfl, rfl, rfl, rfl, rfl, rfl, rfl, rfl, rfl, rfl, rfl, rfl, rfl, rfl, fun c => ?_, ofCode_code⟩
  have h := condHolds_code_xor_eight f (.ofCode c)
  rwa [code_ofCode] at h

end Sys2Proof.Machine
end

section
/-! SUPPORT. How many words the decoder reads: one bound per operand and per group of the opcode map, and from them that every
accepted instruction has one to five words (30_encoding.md R90). -/

namespace Sys2Proof

/-- Reading from `ws` took at most `n` words from its front, if it came to an end. -/
def Parse.ReadsAtMost {α : Type} (n : Nat) (ws : List Word) : Parse α → Prop
  | .ok _ rest => ∃ k ≤ n, k ≤ ws.length ∧ rest = ws.drop k
  | .short | .bad => True

/-! ## Ways of reading on -/

section Reads

variable {α β : Type} {n k : Nat} {ws : List Word}

@[simp] theorem readsAtMost_ok (a : α) : (Parse.ok a ws).ReadsAtMost n ws := ⟨0, n.zero_le, Nat.zero_le _, rfl⟩

@[simp] theorem readsAtMost_bad : (Parse.bad : Parse α).ReadsAtMost n ws := trivial

@[simp] theorem readsAtMost_map (p : Parse α) (f : α → β) : (p.map f).ReadsAtMost n ws ↔ p.ReadsAtMost n ws := by
  cases p <;> rfl

@[simp] theorem readsAtMost_ite {c : Prop} [Decidable c] {p q : Parse α} :
    (if c then p else q).ReadsAtMost n ws ↔ (c → p.ReadsAtMost n ws) ∧ (¬c → q.ReadsAtMost n ws) := by
  split <;> simp [*]

/-- Reading one thing and then another takes the words of both. -/
theorem Parse.ReadsAtMost.andThen {p : Parse α} {f : α → List Word → Parse β} (hp : p.ReadsAtMost k ws)
    (hf : ∀ a rest, (f a rest).ReadsAtMost n rest) : (p.andThen f).ReadsAtMost (n + k) ws := by
  cases p with
  | ok a rest =>
    obtain ⟨i, hi, hilen, rfl⟩ := hp
    have hf := hf a (ws.drop i)
    rw [Parse.andThen_ok]
    cases hq : f a (ws.drop i) with
    | ok b rest =>
      rw [hq] at hf
      obtain ⟨j, hj, hjlen, rfl⟩ := hf
      rw [List.length_drop] at hjlen
      exact ⟨i + j, by omega, by omega, List.drop_drop⟩
    | short => trivial
    | bad => trivial
  | short => trivial
  | bad => trivial

end Reads

/-! ## Operands -/

section Operands

variable {β : Type} {seg : Bool} {ws : List Word} {n : Nat}

@[simp] theorem parseWord_reads : (parseWord ws).ReadsAtMost (n + 1) ws := by
  cases ws with
  | nil => trivial
  | cons w ws => exact ⟨1, by omega, by simp, rfl⟩

@[simp] theorem parseWord_andThen_reads {f : Word → List Word → Parse β} (hf : ∀ w ws, (f w ws).ReadsAtMost n ws) :
    ((parseWord ws).andThen f).ReadsAtMost (n + 1) ws :=
  parseWord_reads.andThen hf

@[simp] theorem parseAddr_reads : (parseAddr seg ws).ReadsAtMost (n + 2) ws :=
  parseWord_andThen_reads fun w ws => by simp

@[simp] theorem parseImm_reads (W : Width) : (parseImm W ws).ReadsAtMost (n + 2) ws := by
  cases W with
  | byte => exact parseWord_andThen_reads fun w ws => by simp
  | word => exact parseWord_reads
  | long => exact parseWord_andThen_reads fun hi ws => by simp

@[simp] theorem parseMem_reads (m : BitVec 2) (a : RegNo) : (parseMem seg m a ws).ReadsAtMost (n + 2) ws := by
  simp [parseMem]

@[simp] theorem parseMem_andThen_reads (m : BitVec 2) (a : RegNo) {f : Mem → List Word → Parse β}
    (hf : ∀ mem ws, (f mem ws).ReadsAtMost n ws) : ((parseMem seg m a ws).andThen f).ReadsAtMost (n + 2) ws :=
  (parseMem_reads m a).andThen hf

@[simp] theorem parseDst_reads (m : BitVec 2) (a : RegNo) : (parseDst seg m a ws).ReadsAtMost (n + 2) ws := by
  simp [parseDst]

@[simp] theorem parseSrc_reads (W : Width) (m : BitVec 2) (a : RegNo) :
    (parseSrc seg W m a ws).ReadsAtMost (n + 2) ws := by
  simp [parseSrc]

theorem parseSecond_reads : (parseSecond ws).ReadsAtMost (n + 1) ws :=
  parseWord_andThen_reads fun w ws => by simp

@[simp] theorem parseSecond_andThen_reads {f : BitVec 4 × BitVec 4 × BitVec 4 → List Word → Parse β}
    (hf : ∀ x ws, (f x ws).ReadsAtMost n ws) : ((parseSecond ws).andThen f).ReadsAtMost (n + 1) ws :=
  parseSecond_reads.andThen hf

@[simp] theorem parseOneReg_reads : (parseOneReg ws).ReadsAtMost (n + 1) ws :=
  parseSecond_andThen_reads fun x ws => by simp

end Operands

/-! ## The groups of the opcode map -/

section Groups

variable {seg : Bool} {m : BitVec 2} {a b : BitVec 4} {ws : List Word} {n : Nat}

@[simp] theorem parseOneOpB_reads : (parseOneOpB seg m a b ws).ReadsAtMost 4 ws := by
  unfold parseOneOpB
  split <;> simp [parseImm]

@[simp] theorem parseOneOp_reads : (parseOneOp seg m a b ws).ReadsAtMost 4 ws := by
  unfold parseOneOp
  split <;> simp [parseImm]

@[simp] theorem parseLdm_reads : (parseLdm seg m a b ws).ReadsAtMost 4 ws := by
  unfold parseLdm
  split <;> simp

@[simp] theorem parseBitB_reads {stat : Dst → BitVec 3 → Instr} {dyn : RegNo → RegNo → Instr} :
    (parseBitB seg stat dyn m a b ws).ReadsAtMost (n + 2) ws := by
  simp [parseBitB]

@[simp] theorem parseBit_reads {stat : Dst → BitVec 4 → Instr} {dyn : RegNo → RegNo → Instr} :
    (parseBit seg stat dyn m a b ws).ReadsAtMost (n + 2) ws := by
  simp [parseBit]

@[simp] theorem parseBased_reads {based : Based → Instr} {rel : Word → Instr} :
    (parseBased based rel m a ws).ReadsAtMost (n + 1) ws := by
  simp [parseBased]

@[simp] theorem shiftOf_reads {bits : Nat} {left right : Nat → Instr} {count : Int} :
    (shiftOf bits left right count ws).ReadsAtMost n ws := by
  simp [shiftOf]

@[simp] theorem parseShiftB_reads : (parseShiftB a b ws).ReadsAtMost (n + 1) ws := by
  unfold parseShiftB
  split <;> simp

@[simp] theorem parseShift_reads : (parseShift a b ws).ReadsAtMost (n + 1) ws := by
  unfold parseShift
  split <;> simp

@[simp] theorem single_reads {t : BitVec 4} {one repeating : Instr} : (single t one repeating ws).ReadsAtMost n ws := by
  simp [single]

@[simp] theorem parseTranslate_reads : (parseTranslate a b ws).ReadsAtMost (n + 1) ws :=
  parseSecond_andThen_reads fun (r, s, t) ws => by dsimp only; split <;> simp

@[simp] theorem parseStringB_reads : (parseStringB a b ws).ReadsAtMost (n + 1) ws :=
  parseSecond_andThen_reads fun (r, d, t) ws => by dsimp only; split <;> simp

@[simp] theorem parseString_reads : (parseString a b ws).ReadsAtMost (n + 1) ws :=
  parseSecond_andThen_reads fun (r, d, t) ws => by dsimp only; split <;> simp

@[simp] theorem parseBlockIo_reads {one repeating : RegNo → RegNo → RegNo → Instr} :
    (parseBlockIo one repeating a ws).ReadsAtMost (n + 1) ws :=
  parseSecond_andThen_reads fun _ _ => single_reads

@[simp] theorem parseIoB_reads : (parseIoB a b ws).ReadsAtMost (n + 1) ws := by
  unfold parseIoB
  split <;> simp

@[simp] theorem parseIo_reads : (parseIo a b ws).ReadsAtMost (n + 1) ws := by
  unfold parseIo
  split <;> simp

@[simp] theorem parseControl_reads : (parseControl a b ws).ReadsAtMost n ws := by
  unfold parseControl
  split
  · simp
  · split
    · simp
    · split <;> simp

@[simp] theorem parseDiEi_reads : (parseDiEi a b ws).ReadsAtMost n ws := by
  simp [parseDiEi]

@[simp] theorem parseLdctl_reads : (parseLdctl a b ws).ReadsAtMost n ws := by
  unfold parseLdctl
  split <;> simp

@[simp] theorem parseExts_reads : (parseExts a b ws).ReadsAtMost n ws := by
  unfold parseExts
  split <;> simp

@[simp] theorem parseEpa_reads {op0 op1 op2 : EpaOp} : (parseEpa op0 op1 op2 m a b ws).ReadsAtMost n ws := by
  simp [parseEpa]

theorem parseCompact_reads {w : Word} : (parseCompact w ws).ReadsAtMost n ws := by
  unfold parseCompact
  split <;> simp

/-- Every row of the opcode map reads at most four words after the first. -/
theorem parse_reads {op : BitVec 6} : (parse seg m op a b ws).ReadsAtMost 4 ws := by
  unfold parse
  split <;> simp

end Groups

/-- The decoder reads at most four words after the first. -/
theorem decodeWords_cons_reads (seg : Bool) (w : Word) (ws : List Word) :
    (decodeWords seg (w :: ws)).ReadsAtMost 4 ws := by
  refine Parse.ReadsAtMost.andThen (n := 0) (k := 4) ?_ fun i rest => by simp
  simp [parseCompact_reads, parse_reads]

/-- Settles O3: what passes the check is well-formed, and the words read are counted operand by operand. -/
theorem decodedInstructionIsWellFormed : Obligations.DecodedInstructionIsWellFormed := by
  intro seg ws rest i h
  refine ⟨wf_of_decodeWords h, ?_⟩
  cases ws with
  | nil => cases h
  | cons w ws =>
    obtain ⟨k, hk, hlen, hrest⟩ := h ▸ decodeWords_cons_reads seg w ws
    exact ⟨k + 1, by omega, by omega, Nat.succ_le_succ hlen, hrest⟩

end Sys2Proof
end

section
/-! SUPPORT. What the decoder rejects (30_encoding.md R130, R131): the sub-opcodes and fields no pattern lists, group by group of the
opcode map, and from them the reserved first words and the malformed second words. -/

namespace Sys2Proof

/-! ## Upper bytes -/

/-- The mode field of an upper byte (R91). -/
def upperMode (u : BitVec 8) : BitVec 2 := u.extractLsb' 6 2

/-- The opcode field of an upper byte (R91). -/
def upperOp (u : BitVec 8) : BitVec 6 := u.extractLsb' 0 6

/-- A word written as upper byte and fields A and B is the first word of its four fields. -/
theorem append_eq_firstWord (u : BitVec 8) (a b : BitVec 4) :
    (u ++ a ++ b : Word) = firstWord (upperMode u) (upperOp u) a b := by
  rw [firstWord, upperMode, upperOp, append_extract (n := 2) (m := 6) u]

/-! ## Sub-opcodes and fixed fields of first words -/

section Groups

variable {seg : Bool} {m : BitVec 2} {a b : BitVec 4} {ws : List Word}

theorem parseOneOpB_unlisted (hb : b ∈ [0x3#4, 0x7#4, 0xA#4, 0xB#4, 0xC#4, 0xD#4, 0xE#4, 0xF#4]) :
    parseOneOpB seg m a b ws = .bad := by
  fin_cases hb <;> rfl

theorem parseOneOp_unlisted (hb : b ∈ [0xA#4, 0xB#4, 0xC#4, 0xD#4, 0xE#4, 0xF#4]) :
    parseOneOp seg m a b ws = .bad := by
  fin_cases hb <;> rfl

theorem parseLdm_unlisted (hb : b ∉ [0x1#4, 0x8#4, 0x9#4]) : parseLdm seg m a b ws = .bad := by
  unfold parseLdm
  split
  case h_4 => rfl
  all_goals exact absurd (by decide) hb

/-- With M = 2 the group has TESTL alone. -/
theorem parseLdm_register (hb : b ≠ 8) : parseLdm seg 2 a b ws = .bad := by
  unfold parseLdm
  split
  case h_1 => exact absurd rfl hb
  all_goals rfl

theorem parseExts_unlisted (hb : b ∉ [0x0#4, 0x7#4, 0xA#4]) : parseExts a b ws = .bad := by
  unfold parseExts
  split
  case h_4 => rfl
  all_goals exact absurd (by decide) hb

theorem parseShiftB_unlisted (hb : b ∈ [0x5#4, 0x7#4, 0xD#4, 0xF#4]) : parseShiftB a b ws = .bad := by
  fin_cases hb <;> rfl

theorem parseIoB_unlisted (hb : b ∈ [0xC#4, 0xD#4, 0xE#4, 0xF#4]) : parseIoB a b ws = .bad := by
  fin_cases hb <;> rfl

theorem parseIo_unlisted (hb : b ∈ [0xC#4, 0xD#4, 0xE#4, 0xF#4]) : parseIo a b ws = .bad := by
  fin_cases hb <;> rfl

theorem parseControl_unlisted (hb : b ∉ [0x0#4, 0x8#4, 0x9#4, 0xA#4, 0xD#4]) : parseControl a b ws = .bad := by
  have hreq : b ≠ 0xD := fun h => hb (h ▸ by decide)
  unfold parseControl
  rw [if_neg hreq]
  split
  · rfl
  · split
    case h_5 => rfl
    all_goals exact absurd (by decide) hb

/-- In the group %7B only MREQ has a register field. -/
theorem parseControl_fieldA (ha : a ≠ 0) (hb : b ≠ 0xD) : parseControl a b ws = .bad :=
  (if_neg hb).trans (if_pos ha)

theorem parseDiEi_fixed (h : a ≠ 0 ∨ b.getLsbD 3 = true) : parseDiEi a b ws = .bad := if_pos h

theorem parseLdctl_unlisted (hb : b ∈ [0x0#4, 0x1#4, 0x8#4, 0x9#4]) : parseLdctl a b ws = .bad := by
  fin_cases hb <;> rfl

end Groups

/-! ## Second words -/

section SecondWords

variable {seg : Bool} {m : BitVec 2} {a b : BitVec 4} {w : Word} {ws : List Word}

/-- A group that reads a second word rejects it if the high nibble is not 0, or else if the group rejects its fields. -/
theorem parseSecond_andThen_bad {α : Type} {k : BitVec 4 × BitVec 4 × BitVec 4 → List Word → Parse α}
    (hk : w.extractLsb' 12 4 = 0 → k (w.extractLsb' 8 4, w.extractLsb' 4 4, w.extractLsb' 0 4) ws = .bad) :
    (parseSecond (w :: ws)).andThen k = .bad := by
  rw [parseSecond, parseWord_cons, Parse.andThen_ok]
  split
  next hw => exact hk hw
  · rfl

/-- The second word of one register has no other field. -/
theorem parseOneReg_bad (h : w.extractLsb' 12 4 ≠ 0 ∨ w.extractLsb' 0 8 ≠ 0) : parseOneReg (w :: ws) = .bad := by
  refine parseSecond_andThen_bad fun hhigh => if_neg fun ⟨hd, ht⟩ => ?_
  have hlow : w.extractLsb' 4 4 ++ w.extractLsb' 0 4 = w.extractLsb' 0 8 := by
    rw [← append_extract (n := 4) (m := 4) (w.extractLsb' 0 8), extract_extract w 0 (by decide),
      extract_extract w 0 (by decide)]
  rw [hd, ht] at hlow
  exact h.elim (· hhigh) (· hlow.symm)

theorem parseOneReg_map_bad {α : Type} {f : RegNo → α} (h : w.extractLsb' 12 4 ≠ 0 ∨ w.extractLsb' 0 8 ≠ 0) :
    (parseOneReg (w :: ws)).map f = .bad := by
  rw [parseOneReg_bad h, Parse.map_bad]

/-- One word is enough for the second word of one register. -/
theorem parseOneReg_cons_bad_or_ok : parseOneReg (w :: ws) = .bad ∨ ∃ r, parseOneReg (w :: ws) = .ok r ws := by
  rw [parseOneReg, parseSecond, parseWord_cons, Parse.andThen_ok]
  split
  · rw [Parse.andThen_ok]
    dsimp only
    split
    · exact .inr ⟨_, rfl⟩
    · exact .inl rfl
  · exact .inl rfl

/-- A block instruction is single with the last field 8 and repeats with 0. -/
theorem single_bad {t : BitVec 4} {one repeating : Instr} (h0 : t ≠ 0) (h8 : t ≠ 8) :
    single t one repeating ws = .bad :=
  (if_neg h8).trans (if_neg h0)

/-- The second word of a block I/O instruction is `0000 rrrr dddd 1000` or `0000 rrrr dddd 0000` (R121). -/
theorem parseBlockIo_bad {one repeating : RegNo → RegNo → RegNo → Instr}
    (h : w.extractLsb' 12 4 ≠ 0 ∨ w.extractLsb' 0 4 ≠ 0 ∧ w.extractLsb' 0 4 ≠ 8) :
    parseBlockIo one repeating a (w :: ws) = .bad :=
  parseSecond_andThen_bad fun hhigh => h.elim (absurd hhigh) fun ⟨h0, h8⟩ => single_bad h0 h8

theorem parseIoB_block (hb : b ∈ Machine.blockIoCodes)
    (h : w.extractLsb' 12 4 ≠ 0 ∨ w.extractLsb' 0 4 ≠ 0 ∧ w.extractLsb' 0 4 ≠ 8) : parseIoB a b (w :: ws) = .bad := by
  fin_cases hb <;> exact parseBlockIo_bad h

theorem parseIo_block (hb : b ∈ Machine.blockIoCodes)
    (h : w.extractLsb' 12 4 ≠ 0 ∨ w.extractLsb' 0 4 ≠ 0 ∧ w.extractLsb' 0 4 ≠ 8) : parseIo a b (w :: ws) = .bad := by
  fin_cases hb <;> exact parseBlockIo_bad h

/-- The second word of LDM is `0000 rrrr 0000 nnnn` (R120). -/
theorem parseLdm_fixed (h : w.extractLsb' 12 4 ≠ 0 ∨ w.extractLsb' 4 4 ≠ 0) (hm : m ≠ 2) (hb : b ∈ [0x1#4, 0x9#4]) :
    parseLdm seg m a b (w :: ws) = .bad := by
  fin_cases hb <;> exact (if_neg hm).trans (parseSecond_andThen_bad fun hhigh => if_neg (h.resolve_left (absurd hhigh)))

/-! ### The string and translate groups -/

theorem parseStringB_unlisted (hb : b ∈ [0x3#4, 0x5#4, 0x7#4, 0xB#4, 0xD#4, 0xF#4]) :
    parseStringB a b (w :: ws) = .bad := by
  fin_cases hb <;> exact parseSecond_andThen_bad fun _ => rfl

theorem parseString_unlisted (hb : b ∈ [0x3#4, 0x5#4, 0x7#4, 0xB#4, 0xD#4, 0xF#4]) :
    parseString a b (w :: ws) = .bad := by
  fin_cases hb <;> exact parseSecond_andThen_bad fun _ => rfl

/-- The sub-opcodes of the translate group, each with the last field of its second word (R123). -/
def translateForms : List (BitVec 4 × BitVec 4) :=
  [(0x0, 0x0), (0x4, 0x0), (0x8, 0x0), (0xC, 0x0), (0x2, 0x0), (0x6, 0xE), (0xA, 0x0), (0xE, 0xE)]

theorem parseTranslate_unlisted (h : (b, w.extractLsb' 0 4) ∉ translateForms) : parseTranslate a b (w :: ws) = .bad := by
  refine parseSecond_andThen_bad fun _ => ?_
  dsimp only
  split
  case h_9 => rfl
  all_goals
    next ht => rw [ht] at h; exact absurd (by decide) h

theorem not_translateForm_of_odd : ∀ f t : BitVec 4, f.getLsbD 0 = true → (f, t) ∉ translateForms := by decide

theorem not_translateForm_of_last_ne_zero :
    ∀ f ∈ [0x0#4, 0x2#4, 0x4#4, 0x8#4, 0xA#4, 0xC#4], ∀ t ≠ 0x0#4, (f, t) ∉ translateForms := by decide

theorem not_translateForm_of_last_ne_fourteen : ∀ f ∈ [0x6#4, 0xE#4], ∀ t ≠ 0xE#4, (f, t) ∉ translateForms := by decide

/-! ### Byte bit instructions (R96, R206) -/

/-- With bit 3 of field B set, a byte bit instruction is dynamic with a register field of 8 and more, if it is one at all. -/
theorem parseBitB_of_msb {stat : Dst → BitVec 3 → Instr} {dyn : RegNo → RegNo → Instr} (hb : b.msb = true) :
    parseBitB seg stat dyn m a b (w :: ws) = .bad ∨ ∃ d, parseBitB seg stat dyn m a b (w :: ws) = .ok (dyn d b) ws := by
  by_cases hma : m = 0 ∧ a = 0
  · rw [parseBitB, if_pos hma]
    obtain h | ⟨r, h⟩ := parseOneReg_cons_bad_or_ok (w := w) (ws := ws)
    · exact .inl (by rw [h, Parse.map_bad])
    · exact .inr ⟨r, by rw [h, Parse.map_ok]⟩
  · exact .inl ((if_neg hma).trans (if_pos hb))

end SecondWords

end Sys2Proof

namespace Sys2Proof.Machine

/-! ## Rejected words -/

section Rejected

variable {seg : Bool} {u : BitVec 8} {a b : BitVec 4} {ws : List Word}

theorem decodeWords_upperByte (hu : upperMode u ≠ 3) :
    decodeWords seg ((u ++ a ++ b) :: ws) =
      (parse seg (upperMode u) (upperOp u) a b ws).andThen fun i rest => if i.wf seg then .ok i rest else .bad := by
  rw [append_eq_firstWord, decodeWords_firstWord seg hu]

/-- A first word the opcode map has no row for is rejected. -/
theorem rejected_of_parse_bad (h : parse seg (upperMode u) (upperOp u) a b ws = .bad)
    (hu : upperMode u ≠ 3 := by decide) : Rejected seg ((u ++ a ++ b) :: ws) := by
  rw [Rejected, decodeWords_upperByte hu, h, Parse.andThen_bad]

/-- An instruction that is read but is not well-formed is rejected. -/
theorem rejected_of_not_wf {i : Instr} {rest : List Word}
    (h : parse seg (upperMode u) (upperOp u) a b ws = .ok i rest) (hi : i.wf seg = false)
    (hu : upperMode u ≠ 3 := by decide) : Rejected seg ((u ++ a ++ b) :: ws) := by
  rw [Rejected, decodeWords_upperByte hu, h, Parse.andThen_ok, hi]
  rfl

/-- A word of a byte bit instruction with bit 3 of field B set is rejected: it is no instruction, or a dynamic one that is not
well-formed. -/
theorem rejected_of_parseBitB {w : Word} {stat : Dst → BitVec 3 → Instr} {dyn : RegNo → RegNo → Instr}
    (hb : b.msb = true)
    (hp : parse seg (upperMode u) (upperOp u) a b (w :: ws) = parseBitB seg stat dyn (upperMode u) a b (w :: ws))
    (hwf : ∀ d, (dyn d b).wf seg = !b.msb := by intros; rfl) (hu : upperMode u ≠ 3 := by decide) :
    Rejected seg ((u ++ a ++ b) :: w :: ws) := by
  obtain h | ⟨d, h⟩ := hp ▸ parseBitB_of_msb hb
  · exact rejected_of_parse_bad h hu
  · exact rejected_of_not_wf h (by rw [hwf, hb, Bool.not_true]) hu

end Rejected

/-- Settles O4: each reserved first word is in a group of the opcode map that lists no such sub-opcode, or whose fixed field is 0. -/
theorem reservedWordsAreRejected : Obligations.ReservedWordsAreRejected := by
  intro seg a b rest
  refine ⟨?upperByte, ?oneOpB, ?ldctlbWrite, ?storeImmB, ?oneOp, ?flags, ?pushImm, ?nop, ?ldm, ?testl, ?ret, ?fieldB, ?exts,
    ?shiftB, ?io, ?halt, ?control, ?controlA, ?diEi, ?ldctl⟩
  case upperByte =>
    intro u hu
    fin_cases hu
    · exact rejected_of_parse_bad rfl
    · exact rejected_of_parse_bad rfl
    · exact rejected_of_parse_bad rfl
    · exact rejected_of_parse_bad rfl
    · exact rejected_of_parse_bad rfl
    -- %9F and %B9: CALL and LDPS want field B = 0, and no register operand (M = 2).
    · exact rejected_of_parse_bad (ite_self _)
    · exact rejected_of_parse_bad (ite_self _)
    · exact rejected_of_parse_bad rfl
  case oneOpB =>
    intro u hu f hf
    fin_cases hu <;> exact rejected_of_parse_bad (parseOneOpB_unlisted hf)
  case ldctlbWrite =>
    intro u hu
    fin_cases hu <;> exact rejected_of_parse_bad rfl
  case storeImmB => exact rejected_of_parse_bad rfl
  case oneOp =>
    intro u hu f hf
    fin_cases hu <;> exact rejected_of_parse_bad (parseOneOp_unlisted hf)
  case flags =>
    intro u hu f hf
    fin_cases hu <;> fin_cases hf <;> exact rejected_of_parse_bad rfl
  case pushImm =>
    intro u hu
    fin_cases hu <;> exact rejected_of_parse_bad rfl
  case nop => exact fun ha => rejected_of_parse_bad (if_neg fun h => ha h.2)
  case ldm =>
    intro u hu hb
    fin_cases hu <;> exact rejected_of_parse_bad (parseLdm_unlisted hb)
  case testl => exact fun hb => rejected_of_parse_bad (parseLdm_register hb)
  case ret => exact fun ha => rejected_of_parse_bad (if_neg ha)
  case fieldB =>
    intro u hu hb
    fin_cases hu <;> exact rejected_of_parse_bad (if_neg hb)
  case exts => exact fun hb => rejected_of_parse_bad (parseExts_unlisted hb)
  case shiftB => exact fun f hf => rejected_of_parse_bad (parseShiftB_unlisted hf)
  case io =>
    intro u hu f hf
    fin_cases hu
    · exact rejected_of_parse_bad (parseIoB_unlisted hf)
    · exact rejected_of_parse_bad (parseIo_unlisted hf)
  case halt => exact fun h => rejected_of_parse_bad (if_neg fun ⟨ha, hb⟩ => h.elim (· ha) (· hb))
  case control => exact fun hb => rejected_of_parse_bad (parseControl_unlisted hb)
  case controlA => exact fun ha hb => rejected_of_parse_bad (parseControl_fieldA ha hb)
  case diEi => exact fun h => rejected_of_parse_bad (parseDiEi_fixed h)
  case ldctl => exact fun f hf => rejected_of_parse_bad (parseLdctl_unlisted hf)

/-- Settles O59: no group takes a second word with another high nibble, fixed field or sub-opcode than its patterns have, and a
byte bit instruction with bit 3 of field B set is no instruction or not well-formed. -/
theorem malformedSecondWordsAreRejected : Obligations.MalformedSecondWordsAreRejected := by
  intro seg a b w rest
  refine ⟨?strings, ?translate, ?high, ?ldm, ?single, ?translateZero, ?translateFourteen, ?oneReg, ?byteBits⟩
  case strings =>
    intro u hu f hf
    fin_cases hu
    · exact rejected_of_parse_bad (parseStringB_unlisted hf)
    · exact rejected_of_parse_bad (parseString_unlisted hf)
  case translate =>
    exact fun hb => rejected_of_parse_bad (parseTranslate_unlisted (not_translateForm_of_odd _ _ hb))
  case high =>
    refine fun h => ⟨fun u hu => ?_, fun u hu f hf => ?_⟩
    · fin_cases hu <;> exact rejected_of_parse_bad (parseSecond_andThen_bad (absurd · h))
    · fin_cases hu
      · exact rejected_of_parse_bad (parseIoB_block hf (.inl h))
      · exact rejected_of_parse_bad (parseIo_block hf (.inl h))
  case ldm =>
    intro h u hu f hf
    fin_cases hu <;> exact rejected_of_parse_bad (parseLdm_fixed h (by decide) hf)
  case single =>
    refine fun h0 h8 => ⟨fun u hu f hf => ?_, fun u hu f hf => ?_⟩
    · fin_cases hu <;> fin_cases hf <;> exact rejected_of_parse_bad (parseSecond_andThen_bad fun _ => single_bad h0 h8)
    · fin_cases hu
      · exact rejected_of_parse_bad (parseIoB_block hf (.inr ⟨h0, h8⟩))
      · exact rejected_of_parse_bad (parseIo_block hf (.inr ⟨h0, h8⟩))
  case translateZero =>
    exact fun h f hf => rejected_of_parse_bad (parseTranslate_unlisted (not_translateForm_of_last_ne_zero f hf _ h))
  case translateFourteen =>
    exact fun h f hf => rejected_of_parse_bad (parseTranslate_unlisted (not_translateForm_of_last_ne_fourteen f hf _ h))
  case oneReg =>
    refine fun h => ⟨fun u hu => ?_, fun f hf => ?_, fun f hf => ?_, fun u hu => ?_⟩
    · fin_cases hu <;> exact rejected_of_parse_bad (parseOneReg_map_bad h)
    · fin_cases hf <;> exact rejected_of_parse_bad (parseOneReg_map_bad h)
    · fin_cases hf <;> exact rejected_of_parse_bad (parseOneReg_map_bad h)
    · fin_cases hu <;> exact rejected_of_parse_bad (parseOneReg_map_bad h)
  case byteBits =>
    intro hb u hu
    fin_cases hu <;> exact rejected_of_parseBitB hb rfl

end Sys2Proof.Machine
end

section
/-! SUPPORT. Load and exchange: one lemma per shared meaning (load, store, exchange, the words of LDM, pop and push), and from
them the statements of the family (40_load_exchange.md). -/

namespace Sys2Proof.Machine

/-! ## Loads -/

section Loads

variable {s : State} {W : Width} {d : RegNo} {v : BitVec W.bits}

theorem load_next {src : Src W} (h : s.readSrc src = .next v) : load d src s = .next (s.setRegW W d v) := by
  rw [load, h, Res.andThen_next]

theorem loadFrom_next {a : Addr} (h : s.read W a = .next v) : loadFrom W d a s = .next (s.setRegW W d v) := by
  rw [loadFrom, h, Res.andThen_next]

end Loads

/-- Settles O29: a load form is `load` or `loadFrom` at its width; the immediate forms write the register at once. -/
theorem loadsPutTheOperandInTheRegister : Obligations.LoadsPutTheOperandInTheRegister := fun _ _ =>
  ⟨fun _ _ h => load_next h, fun _ _ h => load_next h, fun _ _ h => load_next h,
    fun _ _ h => loadFrom_next (W := .byte) h, fun _ _ h => loadFrom_next (W := .word) h,
    fun _ _ h => loadFrom_next (W := .long) h, fun _ _ h => loadFrom_next (W := .byte) h,
    fun _ _ h => loadFrom_next (W := .word) h, fun _ _ h => loadFrom_next (W := .long) h, fun _ => rfl, fun _ => rfl⟩

/-! ## Stores -/

/-- An instruction that is one store does what `Stores` says. -/
theorem stores_of_store {W : Width} {i : Instr} {a : Addr} {v : BitVec W.bits} {s : State}
    (h : exec i s = s.store W a v) : Stores W i a v s :=
  fun hcan => h ▸ State.store_next v hcan

/-- Settles O30: every store form is one store, of a register or of the immediate. -/
theorem storesPutTheOperandInMemory : Obligations.StoresPutTheOperandInMemory := fun _ _ =>
  ⟨fun _ => stores_of_store rfl, fun _ => stores_of_store rfl, fun _ => stores_of_store rfl,
    fun _ => stores_of_store rfl, fun _ => stores_of_store rfl, fun _ => stores_of_store rfl,
    fun _ => stores_of_store rfl, fun _ => stores_of_store rfl, fun _ => stores_of_store rfl,
    fun _ _ => stores_of_store rfl, fun _ _ => stores_of_store rfl⟩

/-! ## CLR and EX -/

/-- An exchange writes the register to the operand, then the operand's old value to the register (R142). -/
theorem exchange_next {s : State} {W : Width} {d : RegNo} {x : Dst} {v : BitVec W.bits} (hv : s.readDst W x = .next v)
    (hx : s.CanWrite W x) : ∃ t, s.Written W x (s.regW W d) t ∧ exchange W d x s = .next (t.setRegW W d v) := by
  obtain ⟨t, hwritten, ht⟩ := State.writeDst_next (s.regW W d) hx
  exact ⟨t, hwritten, by rw [exchange, hv, Res.andThen_next, ht, Res.andThen_next]⟩

/-- Settles O31: CLR is one write of the operand, EX an exchange. -/
theorem clearAndExchange : Obligations.ClearAndExchange := fun _ _ _ =>
  ⟨fun hx => State.writeDst_next (W := .byte) 0 hx, fun hx => State.writeDst_next (W := .word) 0 hx,
    fun _ hv hx => exchange_next (W := .byte) hv hx, fun _ hv hx => exchange_next (W := .word) hv hx⟩

/-! ## LDA and LDAR -/

section Addresses

variable {s : State}

theorem State.loadAddress_nonsegmented (h : s.segmented = false) (d : RegNo) (a : Addr) :
    s.loadAddress d a = s.setReg d a.off := by
  simp [State.loadAddress, h]

/-- In segmented mode an address is loaded as a pair, with its reserved bits 0 (R72). -/
theorem State.loadAddress_segmented (h : s.segmented = true) (d : RegNo) (a : Addr) :
    s.loadAddress d a = s.setLongReg d (a.segWord ++ a.off) := by
  rw [State.loadAddress, if_pos h, State.setLongReg, extract_append_high a.segWord a.off,
    extract_append_low a.segWord a.off]

end Addresses

/-- Settles O32: every form loads the address it names, and the mode says into what. -/
theorem addressLoads : Obligations.AddressLoads := by
  intro s d i a h
  have hload : exec i s = .next (s.loadAddress d a) := by
    obtain ⟨_, rfl, rfl⟩ | ⟨_, _, rfl, rfl⟩ | ⟨_, _, rfl, rfl⟩ | ⟨_, _, rfl, rfl⟩ | ⟨_, rfl, rfl⟩ := h <;> rfl
  exact ⟨fun hs => hload.trans (congrArg _ (State.loadAddress_nonsegmented hs d a)),
    fun hs => hload.trans (congrArg _ (State.loadAddress_segmented hs d a))⟩

/-! ## LDM -/

theorem Addr.add_two_add (a : Addr) (j : Nat) : (a.add 2).add (BitVec.ofNat 16 j) = a.add (BitVec.ofNat 16 (j + 2)) := by
  rw [Addr.add_add, BitVec.ofNat_add, BitVec.add_comm]
  rfl

theorem regNo_succ_add (k : RegNo) (j : Nat) : k + 1 + BitVec.ofNat 4 j = k + BitVec.ofNat 4 (j + 1) := by
  rw [BitVec.ofNat_add, BitVec.add_assoc, BitVec.add_comm 1]
  rfl

/-- Fewer than sixteen registers on, a register is not come back to. -/
theorem regNo_ne_succ_add (k : RegNo) {j : Nat} (hj : j < 15) : k ≠ k + 1 + BitVec.ofNat 4 j := by
  intro h
  have h := congrArg BitVec.toNat (h.trans (regNo_succ_add k j))
  simp only [BitVec.toNat_add, BitVec.toNat_ofNat] at h
  omega

/-- A register past the `n` after `d` is none of them. -/
theorem regNo_ne_add_of_lt {d k : RegNo} {n j : Nat} (hk : n < (k - d).toNat) (hj : j ≤ n) : k ≠ d + BitVec.ofNat 4 j := by
  rintro rfl
  have hle : (BitVec.ofNat 4 j).toNat ≤ j := by simpa using Nat.mod_le j 16
  rw [BitVec.add_comm, BitVec.add_sub_cancel] at hk
  omega

theorem State.readWord_setReg (s : State) (k : RegNo) (v : Word) (a : Addr) : (s.setReg k v).readWord a = s.readWord a :=
  State.readWord_congr fun _ _ => State.readByte_congr (s.setReg_par k v) (s.setReg_mem k v) _

/-- `t` is `s` with the `n` words from `a` on in the registers from `k` on, R0 after R15, and nothing else changed. -/
structure State.Loaded (s : State) (n : Nat) (k : RegNo) (a : Addr) (t : State) : Prop where
  only  : s.RegistersOnly t
  words : ∀ j < n, s.readWord (a.add (BitVec.ofNat 16 (2 * j))) = .next (t.reg (k + BitVec.ofNat 4 j))
  rest  : ∀ r : RegNo, (∀ j < n, r ≠ k + BitVec.ofNat 4 j) → t.reg r = s.reg r

/-- One register loaded, and then `n` more. -/
theorem State.Loaded.cons {s t : State} {n : Nat} {k : RegNo} {a : Addr} {v : Word} (hn : n < 16)
    (hv : s.readWord a = .next v) (h : (s.setReg k v).Loaded n (k + 1) (a.add 2) t) : s.Loaded (n + 1) k a t where
  only := (s.registersOnly_setReg k v).trans h.only
  words
    | 0, _ => by
      have hk : t.reg k = v := (h.rest k fun j hj => regNo_ne_succ_add k (by omega)).trans (s.reg_setReg_same k v)
      simpa [hk] using hv
    | j + 1, hj => by
      rw [← regNo_succ_add, ← h.words j (Nat.lt_of_succ_lt_succ hj), State.readWord_setReg, Addr.add_two_add, Nat.mul_succ]
  rest r hr := by
    have hk : r ≠ k := by simpa using hr 0 (Nat.succ_pos n)
    rw [h.rest r fun j hj => regNo_succ_add k j ▸ hr (j + 1) (Nat.succ_lt_succ hj), State.reg_setReg_other s v hk]

theorem loadRegs_next {s : State} {n : Nat} {k : RegNo} {a : Addr} (hn : n ≤ 16)
    (h : ∀ j < n, ∃ w, s.readWord (a.add (BitVec.ofNat 16 (2 * j))) = .next w) :
    ∃ t, loadRegs n k a s = .next t ∧ s.Loaded n k a t := by
  induction n generalizing s k a with
  | zero => exact ⟨s, rfl, ⟨rfl, rfl⟩, nofun, fun _ _ => rfl⟩
  | succ n ih =>
    obtain ⟨v, hv⟩ : ∃ v, s.readWord a = .next v := Addr.add_zero a ▸ h 0 (Nat.succ_pos n)
    obtain ⟨t, ht, hloaded⟩ := ih (s := s.setReg k v) (k := k + 1) (a := a.add 2) (Nat.le_of_succ_le hn) fun j hj => by
      rw [State.readWord_setReg, Addr.add_two_add]
      exact h (j + 1) (Nat.succ_lt_succ hj)
    exact ⟨t, by rw [loadRegs, hv, Res.andThen_next, ht], hloaded.cons hn hv⟩

/-- `t` is `s` with the `n` registers from `k` on stored from `a` on, R0 after R15, and nothing else changed. -/
structure State.StoredRegs (s : State) (n : Nat) (k : RegNo) (a : Addr) (t : State) : Prop where
  only  : t = { s with mem := t.mem }
  words : ∀ j < n, t.readWord (a.add (BitVec.ofNat 16 (2 * j))) = .next (s.reg (k + BitVec.ofNat 4 j))
  rest  : ∀ b : Addr, (∀ i < 2 * n, b ≠ a.add (BitVec.ofNat 16 i)) → t.readByte b = s.readByte b

/-- One register stored, and then `n` more. -/
theorem State.StoredRegs.cons {s u t : State} {n : Nat} {k : RegNo} {a : Addr} (hn : n < 16)
    (hu : s.Stored .word a (s.reg k) u) (h : u.StoredRegs n (k + 1) (a.add 2) t) : s.StoredRegs (n + 1) k a t where
  only := h.only.trans (congrArg (fun x : State => { x with mem := t.mem }) hu.only)
  words
    | 0, _ => by
      have hfirst : t.readWord a = u.readWord a := State.readWord_congr fun i hi => h.rest _ fun j hj => by
        rw [Addr.add_two_add]
        exact add_ofNat_ne (by omega) (by omega) (by omega)
      have hvalue : u.readWord a = .next (s.reg k) := hu.value
      simpa [hfirst] using hvalue
    | j + 1, hj => by
      have hreg (r : RegNo) : u.reg r = s.reg r := by rw [hu.only]; rfl
      rw [← regNo_succ_add, ← hreg, ← h.words j (Nat.lt_of_succ_lt_succ hj), Addr.add_two_add, Nat.mul_succ]
  rest b hb := by
    rw [h.rest b fun i hi => Addr.add_two_add a i ▸ hb (i + 2) (by omega)]
    exact hu.rest b fun i hi => hb i (by have hi : i < 2 := hi; omega)

/-- Whether a store goes through depends on the parameters and the PC alone. -/
theorem State.CanStore.congr {s t : State} {W : Width} {a : Addr} (h : s.CanStore W a) (hpar : t.par = s.par)
    (hpc : t.pc = s.pc) : t.CanStore W a where
  aligned := h.aligned
  admitted := by simpa only [State.admits, hpar] using h.admitted
  apart := hpc ▸ h.apart

theorem State.CanStore.stepPointer {s : State} {W : Width} {a : Addr} (h : s.CanStore W a) (p : RegNo) (k : Word) :
    (s.stepPointer p k).CanStore W a := h.congr (s.stepPointer_par p k) (s.stepPointer_pc p k)

theorem storeRegs_next {s : State} {n : Nat} {k : RegNo} {a : Addr} (hn : n ≤ 16)
    (h : ∀ j < n, s.CanStore .word (a.add (BitVec.ofNat 16 (2 * j)))) :
    ∃ t, storeRegs n k a s = .next t ∧ s.StoredRegs n k a t := by
  induction n generalizing s k a with
  | zero => exact ⟨s, rfl, rfl, nofun, fun _ _ => rfl⟩
  | succ n ih =>
    have hfirst : s.CanStore .word a := Addr.add_zero a ▸ h 0 (Nat.succ_pos n)
    obtain ⟨u, hstored, hu⟩ := State.store_next (W := .word) (s.reg k) hfirst
    obtain ⟨t, ht, hrest⟩ := ih (s := u) (k := k + 1) (a := a.add 2) (Nat.le_of_succ_le hn) fun j hj => by
      rw [Addr.add_two_add]
      exact (h (j + 1) (Nat.succ_lt_succ hj)).congr (by rw [hstored.only]) (by rw [hstored.only])
    exact ⟨t, by rw [storeRegs, hu, Res.andThen_next, ht], hrest.cons hn hstored⟩

/-- LDM is refused exactly when a register its address uses is among those it loads. -/
theorem memRegs_any_ldmLoads {s : State} {m : Mem} {d : RegNo} {n : BitVec 4} :
    (s.memRegs m).any (ldmLoads d n) = true ↔ ∃ k ∈ s.memRegs m, (k - d).toNat ≤ n.toNat := by
  simp [ldmLoads]

/-- Settles O33: induction on the number of registers; at most sixteen words do not meet, nor do at most sixteen registers. -/
theorem loadMultiple : Obligations.LoadMultiple := by
  intro s d m n
  have hn : n.toNat + 1 ≤ 16 := n.isLt
  refine ⟨fun h => if_pos (memRegs_any_ldmLoads.2 h), fun hapart hread => ?_, fun hcan => ?_⟩
  · have hdisjoint : ¬ (s.memRegs m).any (ldmLoads d n) = true := fun h =>
      let ⟨k, hk, hle⟩ := memRegs_any_ldmLoads.1 h
      Nat.not_lt.2 hle (hapart k hk)
    obtain ⟨t, ht, hloaded⟩ := loadRegs_next (k := d) hn fun j hj => hread j (Nat.le_of_lt_succ hj)
    exact ⟨t, (if_neg hdisjoint).trans ht, fun j hj => hloaded.words j (Nat.lt_succ_of_le hj),
      fun k hk => hloaded.rest k fun j hj => regNo_ne_add_of_lt hk (Nat.le_of_lt_succ hj), hloaded.only.only,
      hloaded.only.otherStack⟩
  · obtain ⟨t, ht, hstored⟩ := storeRegs_next (k := d) hn fun j hj => hcan j (Nat.le_of_lt_succ hj)
    exact ⟨t, ht, hstored.only, fun j hj => hstored.words j (Nat.lt_succ_of_le hj), hstored.rest⟩

/-! ## POP and PUSH -/

section Stacks

variable {s : State} {W : Width} {k p : RegNo} {v : BitVec W.bits}

theorem State.overlapsPointer_eq_true :
    s.overlapsPointer W k p = true ↔ ∃ r ∈ dstRegs W (.reg k), r ∈ s.pointerRegs p := by
  cases W <;> simp [State.overlapsPointer, operandRegs, dstRegs, widthRegs]

theorem State.overlapsPointer_eq_false (h : ∀ r ∈ dstRegs W (.reg k), r ∉ s.pointerRegs p) :
    s.overlapsPointer W k p = false :=
  Bool.eq_false_iff.2 fun hover =>
    let ⟨r, hr, hp⟩ := State.overlapsPointer_eq_true.1 hover
    h r hr hp

theorem popTo_overlap (h : s.overlapsPointer W k p = true) : popTo W (.reg k) p s = .refused .stackPointerOverlap :=
  if_pos h

theorem pushFrom_overlap (h : s.overlapsPointer W k p = true) :
    pushFrom (W := W) p (.reg k) s = .refused .stackPointerOverlap := if_pos h

theorem State.pop_next (h : s.read W (s.pointer p) = .next v) :
    s.pop W p = .next (v, s.stepPointer p (BitVec.ofNat 16 W.bytes)) := by
  rw [State.pop, h, Res.andThen_next]

theorem popTo_reg (hk : s.overlapsPointer W k p = false) (hv : s.read W (s.pointer p) = .next v) :
    popTo W (.reg k) p s = .next ((s.stepPointer p (BitVec.ofNat 16 W.bytes)).setRegW W k v) := by
  simp [popTo, State.place, hk, State.pop_next hv, State.writePlace]

/-- A pop to memory stores at the address computed before the pointer moves (R140, R149). -/
theorem popTo_mem {m : Mem} (hm : s.CanStore W (s.ea m)) (hv : s.read W (s.pointer p) = .next v) :
    ∃ t, (s.stepPointer p (BitVec.ofNat 16 W.bytes)).Stored W (s.ea m) v t ∧ popTo W (.mem m) p s = .next t := by
  obtain ⟨t, hstored, ht⟩ := State.store_next v (hm.stepPointer p (BitVec.ofNat 16 W.bytes))
  exact ⟨t, hstored, by simp [popTo, State.place, State.pop_next hv, State.writePlace, ht]⟩

theorem pops_of_popTo {i : Dst → RegNo → Instr} (hi : ∀ dst p s, exec (i dst p) s = popTo W dst p s) : Pops W i := by
  intro s dst p v hv hapart hwrite
  rw [hi]
  cases dst with
  | reg k => exact ⟨_, rfl, popTo_reg (State.overlapsPointer_eq_false hapart) hv⟩
  | mem m => exact popTo_mem hwrite hv

/-- A push moves the pointer down and stores where it then points (R84). -/
theorem State.push_next (v : BitVec W.bits) (h : s.CanStore W ((s.pointer p).add (-(BitVec.ofNat 16 W.bytes)))) :
    ∃ t, (s.stepPointer p (-(BitVec.ofNat 16 W.bytes))).Stored W ((s.pointer p).add (-(BitVec.ofNat 16 W.bytes))) v t ∧
      s.push W p v = .next t := by
  obtain ⟨t, hstored, ht⟩ := State.store_next v (h.stepPointer p (-(BitVec.ofNat 16 W.bytes)))
  exact ⟨t, hstored, by rw [State.push, State.pointer_stepPointer, ht]⟩

theorem pushes_of_push {i : Instr} (hi : exec i s = s.push W p v) : Pushes W i p v s := by
  intro hcan
  rw [hi, BitVec.sub_eq_add_neg]
  exact State.push_next v hcan

/-- An operand that is read and does not overlap the pointer is pushed. -/
theorem pushFrom_eq_push {src : Src W} (hv : s.readSrc src = .next v)
    (hk : ∀ k, src = .reg k → s.overlapsPointer W k p = false) : pushFrom p src s = s.push W p v := by
  cases src with
  | reg k =>
    cases hv
    simp [pushFrom, hk k rfl]
  | imm x => cases hv; rfl
  | mem m =>
    have hv : s.read W (s.ea m) = .next v := hv
    rw [pushFrom, hv, Res.andThen_next]

theorem State.readSrc_toSrc (s : State) (x : Dst) : s.readSrc (x.toSrc (W := W)) = s.readDst W x := by
  cases x <;> rfl

theorem Dst.toSrc_eq_reg {x : Dst} : x.toSrc (W := W) = .reg k ↔ x = .reg k := by
  cases x <;> simp [Dst.toSrc]

end Stacks

/-- Settles O34: each is `popTo` or `pushFrom` at its width; a register operand overlaps the pointer where one of its words is
a word of the pointer. -/
theorem popAndPush : Obligations.PopAndPush := by
  refine ⟨pops_of_popTo fun _ _ _ => rfl, pops_of_popTo fun _ _ _ => rfl, fun s p => ⟨?_, ?_, fun k hk => ?_, fun k hk => ?_⟩⟩
  · intro src v hv hapart
    exact pushes_of_push (pushFrom_eq_push hv fun k hk =>
      State.overlapsPointer_eq_false (List.forall_mem_singleton.2 (hapart k hk)))
  · intro src v hv hapart
    refine pushes_of_push (pushFrom_eq_push ((s.readSrc_toSrc src).trans hv) fun k hk => ?_)
    exact State.overlapsPointer_eq_false (Dst.toSrc_eq_reg.1 hk ▸ hapart)
  · have hover : s.overlapsPointer .word k p = true := State.overlapsPointer_eq_true.2 ⟨k, .head _, hk⟩
    exact ⟨popTo_overlap hover, pushFrom_overlap hover⟩
  · have hover : s.overlapsPointer .long k p = true := State.overlapsPointer_eq_true.2 <|
      hk.elim (fun h => ⟨k, .head _, h⟩) fun h => ⟨k + 1, .tail _ (.head _), h⟩
    exact ⟨popTo_overlap hover, pushFrom_overlap hover⟩

end Sys2Proof.Machine
end


section
/-! SUPPORT. Arithmetic in unbounded integers: when a wrapped sum has the wrong sign, and from it V of every form; the decimal
adjustment by digit sums; exact products and quotients; and the statements of the family (41_arithmetic.md). -/

namespace Sys2Proof

theorem Width.bits_pos (W : Width) : 0 < W.bits := by
  cases W <;> decide

end Sys2Proof

namespace Sys2Proof.Machine

/-! ## Sums and differences -/

section Words

variable {w : Nat}

/-- An integer within one bit of the signed range wraps to a word whose sign is wrong exactly when it does not fit. -/
theorem msb_ofInt (hw : 0 < w) {x : Int} (hlo : -(2 ^ w : Int) ≤ x) (hhi : x < (2 ^ w : Int)) :
    (BitVec.ofInt w x).msb = (decide (x < 0) ^^ tooLong w x) := by
  have hpow : (2 ^ w : Int) = 2 * 2 ^ (w - 1) := (mul_pow_sub_one hw.ne' 2).symm
  rw [hpow] at hlo hhi
  have hmod : x % ((2 ^ w : Nat) : Int) = if x < 0 then x + 2 * 2 ^ (w - 1) else x := by
    rw [Nat.cast_pow, Nat.cast_ofNat, hpow]
    split
    · rw [← Int.add_emod_right, Int.emod_eq_of_lt] <;> omega
    · rw [Int.emod_eq_of_lt] <;> omega
  have hmsb : (BitVec.ofInt w x).msb = decide ((2 ^ (w - 1) : Int) ≤ if x < 0 then x + 2 * 2 ^ (w - 1) else x) := by
    rw [BitVec.msb_eq_decide, BitVec.toNat_ofInt, hmod, decide_eq_decide, Int.le_toNat, Nat.cast_pow, Nat.cast_ofNat]
    split <;> omega
  rw [hmsb, tooLong]
  by_cases hx : x < 0
  · rw [if_pos hx, decide_eq_true hx, Bool.true_xor, ← decide_not, decide_eq_decide]
    omega
  · rw [if_neg hx, decide_eq_false hx, Bool.false_xor, decide_eq_decide]
    omega

theorem ofInt_sub (x y : Int) : BitVec.ofInt w (x - y) = BitVec.ofInt w x - BitVec.ofInt w y := by
  rw [Int.sub_eq_add_neg, BitVec.ofInt_add, BitVec.ofInt_neg, BitVec.sub_eq_add_neg]

theorem ofInt_carryInt (c : Bool) : BitVec.ofInt w (carryInt c) = BitVec.ofNat w c.toNat := by
  cases c <;> rfl

/-- Two integers of the signed range and a carry: the sum overflows exactly when they have one sign and its word another. -/
theorem signs_eq_tooLong (hw : 0 < w) (a : BitVec w) {y : Int} (hlo : -(2 ^ (w - 1) : Int) ≤ y)
    (hhi : y < (2 ^ (w - 1) : Int)) (c : Bool) :
    ((a.msb == decide (y < 0)) && ((BitVec.ofInt w (a.toInt + y + carryInt c)).msb != a.msb)) =
      tooLong w (a.toInt + y + carryInt c) := by
  have halo : -(2 ^ (w - 1) : Int) ≤ a.toInt := a.le_toInt
  have hahi : a.toInt < (2 ^ (w - 1) : Int) := a.toInt_lt
  have hcarry : carryInt c = 0 ∨ carryInt c = 1 := by cases c <;> simp [carryInt]
  have hpow : (2 ^ w : Int) = 2 * 2 ^ (w - 1) := (mul_pow_sub_one hw.ne' 2).symm
  rw [msb_ofInt hw (by omega) (by omega), BitVec.msb_eq_toInt]
  generalize hx : a.toInt + y + carryInt c = x
  by_cases ha : a.toInt < 0 <;> by_cases hy : y < 0
  · have hneg : x < 0 := by omega
    simp [ha, hy, hneg]
  · have hfits : tooLong w x = false := decide_eq_false (by omega)
    simp [ha, hy, hfits]
  · have hfits : tooLong w x = false := decide_eq_false (by omega)
    simp [ha, hy, hfits]
  · have hpos : ¬ x < 0 := by omega
    simp [ha, hy, hpos]

theorem addW_r (a b : BitVec w) (c : Bool) : (addW a b c).r = a + b + BitVec.ofNat w c.toNat := by
  simp [addW, BitVec.ofNat_add]

theorem subW_r (a b : BitVec w) (c : Bool) : (subW a b c).r = a - b - BitVec.ofNat w c.toNat := by
  simp [subW, ofInt_sub]

/-- V of an addition is the signed overflow in unbounded integers (R160). -/
theorem addW_v (hw : 0 < w) (a b : BitVec w) (c : Bool) :
    (addW a b c).v = tooLong w (a.toInt + b.toInt + carryInt c) := by
  have hr : (addW a b c).r = BitVec.ofInt w (a.toInt + b.toInt + carryInt c) := by
    rw [addW_r, BitVec.ofInt_add, BitVec.ofInt_add, BitVec.ofInt_toInt, BitVec.ofInt_toInt, ofInt_carryInt]
  rw [← signs_eq_tooLong hw a b.le_toInt b.toInt_lt, ← hr, ← BitVec.msb_eq_toInt]
  rfl

/-- V of a subtraction: `a - b - c` is `a + (-b - 1) + (1 - c)`, and `-b - 1` has the sign `b` has not. -/
theorem subW_v (hw : 0 < w) (a b : BitVec w) (c : Bool) :
    (subW a b c).v = tooLong w (a.toInt - b.toInt - carryInt c) := by
  have hx : a.toInt - b.toInt - carryInt c = a.toInt + (-b.toInt - 1) + carryInt (!c) := by
    cases c <;> simp [carryInt] <;> omega
  have hr : (subW a b c).r = BitVec.ofInt w (a.toInt - b.toInt - carryInt c) := by
    rw [subW_r, ofInt_sub, ofInt_sub, BitVec.ofInt_toInt, BitVec.ofInt_toInt, ofInt_carryInt]
  have hsign : (a.msb != b.msb) = (a.msb == decide (-b.toInt - 1 < 0)) := by
    rw [b.msb_eq_toInt, ← decide_eq_decide.2 (by omega : ¬ b.toInt < 0 ↔ -b.toInt - 1 < 0), decide_not]
    cases a.msb <;> simp
  have hlo : -(2 ^ (w - 1) : Int) ≤ -b.toInt - 1 := by have := b.toInt_lt; omega
  have hhi : -b.toInt - 1 < (2 ^ (w - 1) : Int) := by have := b.le_toInt; omega
  rw [hx, ← signs_eq_tooLong hw a hlo hhi, ← hx, ← hr, ← hsign]
  rfl

theorem subW_c (a b : BitVec w) (c : Bool) : (subW a b c).c = decide (a.toNat < b.toNat + c.toNat) := by
  simp only [subW, decide_eq_decide]
  omega

theorem subW_h (a b : BitVec w) (c : Bool) : (subW a b c).h = decide (a.toNat % 16 < b.toNat % 16 + c.toNat) := by
  simp only [subW, decide_eq_decide]
  omega

theorem Fcw.setZS_eq (f : Fcw) (r : BitVec w) : f.setZS r = { f with z := decide (r = 0), s := decide (r.toInt < 0) } := by
  rw [Fcw.setZS, BitVec.msb_eq_toInt]
  rfl

/-- The model's flags of an ALU result are those of `arithOf` where its V is the signed overflow. -/
theorem Fcw.arith_eq_arithOf {a : AluResult w} {x : Int} (h : a.v = tooLong w x) (f : Fcw) :
    f.arith a = f.arithOf a.r a.c x := by
  rw [Fcw.arith, Fcw.setZS_eq, h]
  rfl

theorem Fcw.arithKeepC_eq_arithOf {a : AluResult w} {x : Int} (h : a.v = tooLong w x) (f : Fcw) :
    f.arithKeepC a = f.arithOf a.r f.c x := by
  rw [Fcw.arithKeepC, Fcw.setZS_eq, h]
  rfl

end Words

theorem Fcw.added_addW (W : Width) (f : Fcw) (a b : BitVec W.bits) (c : Bool) :
    f.added W (addW a b c) = f.sumOf W a b c := by
  have harith := f.arith_eq_arithOf (addW_v W.bits_pos a b c)
  cases W with
  | byte => rw [Fcw.added, Fcw.arithByte, harith]; rfl
  | word => exact harith
  | long => exact harith

theorem Fcw.subtracted_subW (W : Width) (f : Fcw) (a b : BitVec W.bits) (c : Bool) :
    f.subtracted W (subW a b c) = f.differenceOf W a b c := by
  have harith := f.arith_eq_arithOf (subW_v W.bits_pos a b c)
  rw [subW_r, subW_c] at harith
  cases W with
  | byte => rw [Fcw.subtracted, Fcw.arithByte, harith, subW_h]; rfl
  | word => exact harith
  | long => exact harith

section Registers

variable {s : State} {W : Width} {i : Instr} {d : RegNo} {b : BitVec W.bits} {c : Bool}

theorem adds_of_addTo (h : exec i s = .next (addTo W d b c s)) : Adds W i d b c s := by
  rw [Adds, h, addTo, Fcw.added_addW, addW_r]
  rfl

theorem subtracts_of_subFrom (h : exec i s = .next (subFrom W d b c s)) : Subtracts W i d b c s := by
  rw [Subtracts, h, subFrom, Fcw.subtracted_subW, subW_r]
  rfl

end Registers

theorem Res.andThen_of_next {α β : Type} {x : Res α} {a : α} (h : x = .next a) (f : α → Res β) : x.andThen f = f a := by
  rw [h, Res.andThen_next]

/-- Settles O35: each form is `addTo` or `subFrom` at its width, on the operand read; V is the one flag that needs an argument. -/
theorem additionsAndSubtractions : Obligations.AdditionsAndSubtractions := fun _ _ _ =>
  ⟨fun _ _ h => ⟨adds_of_addTo (Res.andThen_of_next h _), subtracts_of_subFrom (Res.andThen_of_next h _)⟩,
    fun _ _ h => ⟨adds_of_addTo (Res.andThen_of_next h _), subtracts_of_subFrom (Res.andThen_of_next h _)⟩,
    fun _ _ h => ⟨adds_of_addTo (Res.andThen_of_next h _), subtracts_of_subFrom (Res.andThen_of_next h _)⟩,
    adds_of_addTo rfl, adds_of_addTo rfl, subtracts_of_subFrom rfl, subtracts_of_subFrom rfl⟩

/-! ## Comparisons -/

section Comparisons

variable {w : Nat} {a b : BitVec w}

theorem Fcw.arith_subW_false (hw : 0 < w) (f : Fcw) (a b : BitVec w) :
    f.arith (subW a b false) = f.comparisonOf a b := by
  rw [Fcw.arith_eq_arithOf (subW_v hw a b false), subW_r, subW_c]
  simp [carryInt, Fcw.comparisonOf]

/-- After a comparison S differs from V exactly when the first operand is the smaller, as signed numbers (R173). -/
theorem Fcw.comparisonOf_lt (hw : 0 < w) (f : Fcw) (a b : BitVec w) :
    ((f.comparisonOf a b).s ^^ (f.comparisonOf a b).pv) = decide (a.toInt < b.toInt) := by
  have ha := a.le_toInt
  have ha' := a.toInt_lt
  have hb := b.le_toInt
  have hb' := b.toInt_lt
  have hpow : (2 ^ w : Int) = 2 * 2 ^ (w - 1) := (mul_pow_sub_one hw.ne' 2).symm
  have hsign : (a - b).msb = (decide (a.toInt - b.toInt < 0) ^^ tooLong w (a.toInt - b.toInt)) := by
    rw [← msb_ofInt hw (by omega) (by omega), ofInt_sub, BitVec.ofInt_toInt, BitVec.ofInt_toInt]
  rw [show (f.comparisonOf a b).s = (a - b).msb from BitVec.msb_eq_toInt.symm, hsign]
  simp [Fcw.comparisonOf, Fcw.arithOf]

theorem Fcw.comparisonOf_z (f : Fcw) (a b : BitVec w) : (f.comparisonOf a b).z = decide (a = b) := by
  simp only [Fcw.comparisonOf, Fcw.arithOf, decide_eq_decide]
  exact sub_eq_zero

theorem Fcw.comparisonOf_orders (hw : 0 < w) (f : Fcw) (a b : BitVec w) : (f.comparisonOf a b).Orders a b := by
  have hlt := f.comparisonOf_lt hw a b
  have hz := f.comparisonOf_z a b
  have hc : (f.comparisonOf a b).c = decide (a.toNat < b.toNat) := rfl
  have hInt : a = b ↔ a.toInt = b.toInt := BitVec.toInt_inj.symm
  have hNat : a = b ↔ a.toNat = b.toNat := BitVec.toNat_inj.symm
  simp only [Fcw.Orders, condHolds, hlt, hz, hc, ← decide_not, ← Bool.decide_or, ← Bool.decide_and, decide_eq_decide,
    true_and]
  refine ⟨?_, ?_, ?_, ?_, ?_, ?_⟩
  · rw [hInt]; omega
  · rw [hInt]; omega
  · exact not_lt
  · rw [hNat]; omega
  · rw [hNat]; omega
  · exact not_lt

theorem compares_of_compare (hw : 0 < w) {i : Instr} {s : State} (h : exec i s = .next (compare a b s)) :
    Compares i a b s :=
  ⟨by rw [h, compare, Fcw.arith_subW_false hw], Fcw.comparisonOf_orders hw s.fcw a b⟩

end Comparisons

/-- Settles O36: each form is `compare` on the operands read; the order then follows from S differing from V. -/
theorem comparisons : Obligations.Comparisons := fun _ _ =>
  ⟨fun _ _ h => compares_of_compare (by decide) (Res.andThen_of_next h _),
    fun _ _ h => compares_of_compare (by decide) (Res.andThen_of_next h _),
    fun _ _ h => compares_of_compare (by decide) (Res.andThen_of_next h _),
    fun _ _ _ h => compares_of_compare (by decide) (Res.andThen_of_next h _),
    fun _ _ _ h => compares_of_compare (by decide) (Res.andThen_of_next h _)⟩

/-! ## INC, DEC and NEG -/

section Modifications

variable {s : State} {W : Width} {i : Instr} {dst : Dst} {n : BitVec 4}

/-- An instruction that is one read-modify-write does what `Modifies` says. -/
theorem modifies_of_modify {result result' : BitVec W.bits → BitVec W.bits} {flags flags' : BitVec W.bits → Fcw}
    (h : exec i s = s.modify W dst result flags) (hr : ∀ v, result v = result' v) (hf : ∀ v, flags v = flags' v) :
    Modifies W i dst result' flags' s := by
  obtain rfl : result = result' := funext hr
  obtain rfl : flags = flags' := funext hf
  exact fun v hv hcan => h ▸ State.modify_next hv hcan

/-- The count of INC and DEC is positive as a signed number of every operand width. -/
theorem toInt_countOf (W : Width) (n : BitVec 4) : (countOf W.bits n).toInt = n.toNat + 1 := by
  have hn : n.toNat < 16 := n.isLt
  have hsmall : 2 * (n.toNat + 1) < 2 ^ W.bits := by cases W <;> simp only [Width.bits] <;> omega
  have hnat : (countOf W.bits n).toNat = n.toNat + 1 := by
    rw [countOf, BitVec.toNat_ofNat, Nat.mod_eq_of_lt (by omega)]
  rw [BitVec.toInt_eq_toNat_of_lt (hnat ▸ hsmall), hnat, Nat.cast_succ]

theorem modifies_of_increment (h : exec i s = increment W dst n s) :
    Modifies W i dst (fun v => v + BitVec.ofNat W.bits (n.toNat + 1))
      (fun v => s.fcw.arithOf (v + BitVec.ofNat W.bits (n.toNat + 1)) s.fcw.c (v.toInt + (n.toNat + 1))) s := by
  have hr (v : BitVec W.bits) : (addW v (countOf W.bits n) false).r = v + BitVec.ofNat W.bits (n.toNat + 1) := by
    simp [addW_r, countOf]
  have hv (v : BitVec W.bits) : (addW v (countOf W.bits n) false).v = tooLong W.bits (v.toInt + (n.toNat + 1)) := by
    simp [addW_v W.bits_pos, toInt_countOf, carryInt]
  exact modifies_of_modify h hr fun v => by rw [Fcw.arithKeepC_eq_arithOf (hv v), hr]

theorem modifies_of_decrement (h : exec i s = decrement W dst n s) :
    Modifies W i dst (fun v => v - BitVec.ofNat W.bits (n.toNat + 1))
      (fun v => s.fcw.arithOf (v - BitVec.ofNat W.bits (n.toNat + 1)) s.fcw.c (v.toInt - (n.toNat + 1))) s := by
  have hr (v : BitVec W.bits) : (subW v (countOf W.bits n) false).r = v - BitVec.ofNat W.bits (n.toNat + 1) := by
    simp [subW_r, countOf]
  have hv (v : BitVec W.bits) : (subW v (countOf W.bits n) false).v = tooLong W.bits (v.toInt - (n.toNat + 1)) := by
    simp [subW_v W.bits_pos, toInt_countOf, carryInt]
  exact modifies_of_modify h hr fun v => by rw [Fcw.arithKeepC_eq_arithOf (hv v), hr]

/-- Only the most negative word has a negation that does not fit, and it is its own negation (R170). -/
theorem neg_eq_twoPow_iff {w : Nat} (hw : 0 < w) (v : BitVec w) :
    -v = BitVec.twoPow w (w - 1) ↔ (2 ^ (w - 1) : Int) ≤ -v.toInt := by
  have hlo := v.le_toInt
  rw [← BitVec.intMin, BitVec.neg_eq_intMin, ← BitVec.toInt_inj, BitVec.toInt_intMin_of_pos hw]
  omega

theorem Fcw.negate_eq_arithOf {w : Nat} (hw : 0 < w) (f : Fcw) (v : BitVec w) :
    f.negate (-v) = f.arithOf (-v) (decide (v ≠ 0)) (-v.toInt) := by
  have hhi := v.toInt_lt
  have hc : (-v != 0) = decide (v ≠ 0) := by rw [bne, beq_eq_decide, ← decide_not, decide_eq_decide, neg_eq_zero]
  have hpv : (-v == BitVec.twoPow w (w - 1)) = tooLong w (-v.toInt) := by
    rw [beq_eq_decide, tooLong, decide_eq_decide, neg_eq_twoPow_iff hw]
    omega
  rw [Fcw.negate, Fcw.setZS_eq, hc, hpv]
  rfl

theorem modifies_of_negate (h : exec i s = negate W dst s) :
    Modifies W i dst (fun v => -v) (fun v => s.fcw.arithOf (-v) (decide (v ≠ 0)) (-v.toInt)) s :=
  modifies_of_modify h (fun _ => rfl) fun v => s.fcw.negate_eq_arithOf W.bits_pos v

end Modifications

/-- Settles O37: each form is one read-modify-write at its width. -/
theorem incrementDecrementNegate : Obligations.IncrementDecrementNegate := fun _ _ _ =>
  ⟨modifies_of_increment (W := .byte) rfl, modifies_of_increment (W := .word) rfl,
    modifies_of_decrement (W := .byte) rfl, modifies_of_decrement (W := .word) rfl,
    modifies_of_negate (W := .byte) rfl, modifies_of_negate (W := .word) rfl⟩

/-! ## DAB -/

/-- The byte DAB leaves and its C, where the table of R164 has a row. -/
def dabResult (da c h : Bool) (v : Byte) : Option (Byte × Bool) :=
  (dabRow { Fcw.initial with da := da, c := c, h := h } v).map fun row => (v + row.add, row.c')

/-- The BCD byte of a number below a hundred. -/
def bcdByte (n : Nat) : Byte := BitVec.ofNat 8 (16 * (n / 10) + n % 10)

theorem toNat_bcdByte {n : Nat} (hn : n < 100) : (bcdByte n).toNat = 16 * (n / 10) + n % 10 := by
  rw [bcdByte, BitVec.toNat_ofNat]
  omega

theorem isBcd_bcdByte {n : Nat} (hn : n < 100) : isBcd (bcdByte n) := by
  rw [isBcd, toNat_bcdByte hn]
  omega

theorem bcdValue_bcdByte {n : Nat} (hn : n < 100) : bcdValue (bcdByte n) = n := by
  rw [bcdValue, toNat_bcdByte hn]
  omega

theorem bcdValue_lt {v : Byte} (h : isBcd v) : bcdValue v < 100 := by
  obtain ⟨hhigh, hlow⟩ := h
  rw [bcdValue]
  omega

theorem bcdValue_carry {n : Nat} (hn : n < 200) :
    bcdValue (bcdByte (n % 100)) + 100 * (decide (100 ≤ n)).toNat = n := by
  rw [bcdValue_bcdByte (Nat.mod_lt n (by decide))]
  by_cases h : 100 ≤ n <;> simp only [h, decide_true, decide_false, Bool.toNat_true, Bool.toNat_false] <;> omega

theorem bcdValue_borrow {n : Int} (hlo : -100 ≤ n) (hhi : n < 100) :
    (bcdValue (bcdByte (n % 100).toNat) : Int) = n + 100 * (decide (n < 0)).toNat := by
  rw [bcdValue_bcdByte (by omega)]
  by_cases h : n < 0 <;> simp only [h, decide_true, decide_false, Bool.toNat_true, Bool.toNat_false] <;> omega

/-- The rows for additions, on the digit sums `hi` and `lo` that two BCD bytes and a carry can have. -/
theorem dabResult_sum : ∀ hi < 19, ∀ lo < 20,
    dabResult false (decide (256 ≤ 16 * hi + lo)) (decide (16 ≤ lo)) (BitVec.ofNat 8 (16 * hi + lo)) =
      some (bcdByte ((10 * hi + lo) % 100), decide (100 ≤ 10 * hi + lo)) := by
  decide

/-- The rows for subtractions, on the digit differences that two BCD bytes and a borrow can have. -/
theorem dabResult_difference : ∀ hi : Int, -9 ≤ hi → hi ≤ 9 → ∀ lo : Int, -10 ≤ lo → lo ≤ 9 →
    dabResult true (decide (16 * hi + lo < 0)) (decide (lo < 0)) (BitVec.ofInt 8 (16 * hi + lo)) =
      some (bcdByte ((10 * hi + lo) % 100).toNat, decide (10 * hi + lo < 0)) := by
  decide

section Dab

variable {s : State} {d : RegNo}

theorem exec_dab (d : RegNo) (s : State) : exec (.dab d) s = .next (decimalAdjust d s) := rfl

theorem execDab_of_dabResult {x : Byte} {k : Bool}
    (h : dabResult s.fcw.da s.fcw.c s.fcw.h (s.byteReg d) = some (x, k)) :
    exec (.dab d) s = .next { s.setByteReg d x with fcw := { s.fcw with c := k, z := decide (x = 0), s := x.msb } } := by
  obtain ⟨row, hrow, hx⟩ := Option.map_eq_some_iff.1 h
  obtain ⟨rfl, rfl⟩ := Prod.mk.inj hx
  have hfind : dabRow s.fcw (s.byteReg d) = some row := hrow
  rw [exec_dab, decimalAdjust, hfind]
  rfl

/-- DAB completes and changes its register, C, Z and S alone, whether the table has a row or not. -/
theorem execDab_completes (s : State) (d : RegNo) : ∃ x c z sg n, exec (.dab d) s = .next
    { s.setByteReg d x with fcw := { s.fcw with c := c, z := z, s := sg }, free := n } := by
  rw [exec_dab, decimalAdjust]
  split
  · exact ⟨_, _, _, _, (s.setByteReg d _).free, rfl⟩
  · exact ⟨_, _, _, _, _, rfl⟩

variable {a b : Byte} {c : Bool}

theorem dabResult_of_sum (ha : isBcd a) (hb : isBcd b) :
    dabResult false (decide (256 ≤ a.toNat + b.toNat + c.toNat)) (decide (16 ≤ a.toNat % 16 + b.toNat % 16 + c.toNat))
        (a + b + BitVec.ofNat 8 c.toNat) =
      some (bcdByte ((bcdValue a + bcdValue b + c.toNat) % 100), decide (100 ≤ bcdValue a + bcdValue b + c.toNat)) := by
  obtain ⟨ha1, ha0⟩ := ha
  obtain ⟨hb1, hb0⟩ := hb
  have hc : c.toNat ≤ 1 := c.toNat_le
  have h := dabResult_sum (a.toNat / 16 + b.toNat / 16) (by omega) (a.toNat % 16 + b.toNat % 16 + c.toNat) (by omega)
  have hbinary : 16 * (a.toNat / 16 + b.toNat / 16) + (a.toNat % 16 + b.toNat % 16 + c.toNat) =
      a.toNat + b.toNat + c.toNat := by omega
  have hdecimal : 10 * (a.toNat / 16 + b.toNat / 16) + (a.toNat % 16 + b.toNat % 16 + c.toNat) =
      bcdValue a + bcdValue b + c.toNat := by simp only [bcdValue]; omega
  rw [hbinary, hdecimal, BitVec.ofNat_add, BitVec.ofNat_add, BitVec.ofNat_toNat, BitVec.ofNat_toNat, BitVec.setWidth_eq,
    BitVec.setWidth_eq] at h
  exact h

theorem dabResult_of_difference (ha : isBcd a) (hb : isBcd b) :
    dabResult true (decide (a.toNat < b.toNat + c.toNat)) (decide (a.toNat % 16 < b.toNat % 16 + c.toNat))
        (a - b - BitVec.ofNat 8 c.toNat) =
      some (bcdByte (((bcdValue a : Int) - bcdValue b - c.toNat) % 100).toNat,
        decide ((bcdValue a : Int) - bcdValue b - c.toNat < 0)) := by
  obtain ⟨ha1, ha0⟩ := ha
  obtain ⟨hb1, hb0⟩ := hb
  have hc : c.toNat ≤ 1 := c.toNat_le
  have h := dabResult_difference ((a.toNat / 16 : Nat) - (b.toNat / 16 : Nat)) (by omega) (by omega)
    ((a.toNat % 16 : Nat) - (b.toNat % 16 : Nat) - c.toNat) (by omega) (by omega)
  have hbinary : 16 * (((a.toNat / 16 : Nat) : Int) - (b.toNat / 16 : Nat)) +
      ((a.toNat % 16 : Nat) - (b.toNat % 16 : Nat) - c.toNat) = (a.toNat : Int) - b.toNat - c.toNat := by omega
  have hdecimal : 10 * (((a.toNat / 16 : Nat) : Int) - (b.toNat / 16 : Nat)) +
      ((a.toNat % 16 : Nat) - (b.toNat % 16 : Nat) - c.toNat) = (bcdValue a : Int) - bcdValue b - c.toNat := by
    simp only [bcdValue]; omega
  have hborrow : ((a.toNat : Int) - b.toNat - c.toNat < 0) ↔ a.toNat < b.toNat + c.toNat := by omega
  have hhalf : (((a.toNat % 16 : Nat) : Int) - (b.toNat % 16 : Nat) - c.toNat < 0) ↔
      a.toNat % 16 < b.toNat % 16 + c.toNat := by omega
  have hword : BitVec.ofInt 8 ((a.toNat : Int) - b.toNat - c.toNat) = a - b - BitVec.ofNat 8 c.toNat := subW_r a b c
  rwa [hbinary, hdecimal, hword, decide_eq_decide.2 hborrow, decide_eq_decide.2 hhalf] at h

end Dab

end Sys2Proof.Machine

namespace Sys2Proof

open Sys2Proof.Machine

/-- Settles O38: the digits of two BCD bytes have few sums and differences, and the table has the right row for each. -/
theorem decimalAdjust : Obligations.DecimalAdjust := by
  intro s d
  refine ⟨execDab_completes s d, fun f a b c ha hb hv hf => ?_, fun f a b c ha hb hv hf => ?_⟩
  · have ha99 := bcdValue_lt ha
    have hb99 := bcdValue_lt hb
    have hc := c.toNat_le
    have hrow := dabResult_of_sum (c := c) ha hb
    have hvalue := bcdValue_carry (n := bcdValue a + bcdValue b + c.toNat) (by omega)
    have hexec := execDab_of_dabResult (s := s) (d := d) (by rw [hf, hv]; exact hrow)
    exact ⟨_, _, isBcd_bcdByte (Nat.mod_lt _ (by decide)), hvalue, hexec⟩
  · have ha99 := bcdValue_lt ha
    have hb99 := bcdValue_lt hb
    have hc := c.toNat_le
    have hrow := dabResult_of_difference (c := c) ha hb
    have hvalue := bcdValue_borrow (n := (bcdValue a : Int) - bcdValue b - c.toNat) (by omega) (by omega)
    have hexec := execDab_of_dabResult (s := s) (d := d) (by rw [hf, hv]; exact hrow)
    exact ⟨_, _, isBcd_bcdByte (by omega), by omega, hexec⟩

end Sys2Proof

namespace Sys2Proof.Machine

/-! ## MULT -/

/-- The double length holds every product (R169). -/
theorem toInt_ofInt_product {h : Nat} (hh : 0 < h) (a b : BitVec h) :
    (BitVec.ofInt (h + h) (product a b)).toInt = product a b := by
  have hpow : (2 ^ (h + h - 1) : Int) = 2 * 2 ^ (h * 2 - 2) := by
    rw [← Int.pow_succ']; congr 1; omega
  have hpos : (0 : Int) < 2 ^ (h * 2 - 2) := by positivity
  have hlo : -(2 ^ (h * 2 - 2) : Int) ≤ product a b := BitVec.le_toInt_mul_toInt
  have hhi : product a b ≤ (2 ^ (h * 2 - 2) : Int) := BitVec.toInt_mul_toInt_le
  exact BitVec.toInt_ofInt_eq_self (by omega) (by omega) (by omega)

/-- The flags of a multiplication, read off the double-length result `r`. -/
theorem Fcw.multiplied_toInt {h n : Nat} (f : Fcw) (r : BitVec n) :
    f.multiplied h r.toInt =
      { f with c := tooLong h r.toInt, z := decide (r = 0), s := decide (r.toInt < 0), pv := false } := by
  have hz : decide (r.toInt = 0) = decide (r = 0) := by
    rw [decide_eq_decide, ← BitVec.toInt_inj, BitVec.ofNat_eq_ofNat, BitVec.toInt_zero]
  rw [Fcw.multiplied, hz]
  rfl

/-- Settles O39: the product is the result's own signed value, so the flags can be read off the result. -/
theorem multiplication : Obligations.Multiplication := by
  intro s d
  refine ⟨fun src v hv => ⟨_, toInt_ofInt_product (by decide) (s.reg (d + 1)) v, ?_⟩,
    fun src v hv => ⟨_, toInt_ofInt_product (by decide) (s.longReg (d + 2)) v, ?_⟩⟩
  · rw [← Fcw.multiplied_toInt, toInt_ofInt_product (by decide)]
    exact Res.andThen_of_next hv _
  · rw [← Fcw.multiplied_toInt, toInt_ofInt_product (by decide)]
    exact Res.andThen_of_next hv _

/-! ## DIV -/

theorem State.setLongReg_longReg (s : State) (k : RegNo) : s.setLongReg k (s.longReg k) = s := by
  rw [State.setLongReg, State.longReg, extract_append_high (s.reg k), extract_append_low (s.reg k), State.setReg_reg,
    State.setReg_reg]

theorem State.setQuadReg_quadReg (s : State) (k : RegNo) : s.setQuadReg k (s.quadReg k) = s := by
  rw [State.setQuadReg, State.quadReg, extract_append_high (s.longReg k), extract_append_low (s.longReg k),
    State.setLongReg_longReg, State.setLongReg_longReg]

/-- Division truncated toward zero has one quotient and one remainder. -/
theorem IsQuotient.eq {a b q rem : Int} (h : IsQuotient a b q rem) : a.tdiv b = q ∧ a.tmod b = rem := by
  obtain ⟨hb, hwhole, hsmall, hsign⟩ := h
  rcases le_or_gt 0 a with ha | ha
  · exact (Int.tdiv_tmod_unique ha hb).2 ⟨by rw [hwhole]; ring, by omega, by omega⟩
  · exact (Int.tdiv_tmod_unique' ha.le hb).2 ⟨by rw [hwhole]; ring, by omega, by omega⟩

section Divisions

variable {h : Nat} {a b q rem : Int} {i : Instr} {s : State} {write : BitVec (h + h) → State} {old : BitVec (h + h)}

theorem tooLong_of_tooLong_succ {x : Int} (hx : tooLong (h + 1) x = true) : tooLong h x = true := by
  have hpow : (2 ^ (h - 1) : Int) ≤ 2 ^ h := pow_le_pow_right₀ (by decide) (Nat.sub_le h 1)
  simp only [tooLong, Nat.add_sub_cancel, decide_eq_true_eq] at hx ⊢
  omega

/-- The case of a division is read off the quotient (R166). -/
theorem divCase_of_isQuotient (hq : IsQuotient a b q rem) :
    divCase h a b = if tooLong h q = false then .fits q rem else if tooLong (h + 1) q = false then .oneBitTooLong q rem
      else .overflow := by
  obtain ⟨hdiv, hmod⟩ := hq.eq
  rw [divCase, if_neg hq.nonzero, hdiv, hmod]
  simp only [tooLong, decide_eq_false_iff_not, not_or, not_lt, not_le, Int.le_sub_one_iff, Nat.add_sub_cancel]

/-- The state after a division of case `k`, `write` being the write of the double-length register and `old` what it held. -/
def State.divided (s : State) (write : BitVec (h + h) → State) (old : BitVec (h + h)) (k : DivCase) : State :=
  { write (k.dest old s.free) with fcw := k.flags s.fcw s.free, free := k.freeAfter s.free }

/-- A division by zero keeps the destination. -/
theorem divided_by_zero (hexec : exec i s = .next (s.divided write old (divCase h a b))) (hold : write old = s)
    (hb : b = 0) : exec i s = .next { s with fcw := { s.fcw with c := false, z := true, s := false, pv := true } } := by
  have hcase : divCase h a b = .divisorZero := if_pos hb
  have hdest : write (DivCase.divisorZero.dest old s.free) = s := hold
  rw [hexec, hcase, State.divided, hdest]
  rfl

/-- A quotient of at most `h + 1` bits is written, with its low-order `h` bits (R166). -/
theorem divided_of_fits (hexec : exec i s = .next (s.divided write old (divCase h a b)))
    (hfree : ∀ x, (write x).free = s.free) (hq : IsQuotient a b q rem) (hfits : tooLong (h + 1) q = false) :
    exec i s = .next { write (BitVec.ofInt h rem ++ BitVec.ofInt h q) with
      fcw := { s.fcw with c := tooLong h q, z := decide (q = 0), s := decide (q < 0), pv := tooLong h q } } := by
  rw [hexec, divCase_of_isQuotient hq, if_pos hfits, State.divided]
  cases hlong : tooLong h q <;> simp [DivCase.dest, DivCase.flags, DivCase.freeAfter, hfree]

/-- After an overflow the destination and S are any value (R166). -/
theorem divided_of_tooLong (hexec : exec i s = .next (s.divided write old (divCase h a b)))
    (hq : IsQuotient a b q rem) (hlong : tooLong (h + 1) q = true) :
    ∃ x sg n, exec i s = .next
      { write x with fcw := { s.fcw with c := false, z := false, s := sg, pv := true }, free := n } := by
  have hcase : divCase h a b = .overflow := by
    rw [divCase_of_isQuotient hq, if_neg (by simp [tooLong_of_tooLong_succ hlong]), if_neg (by simp [hlong])]
  exact ⟨_, _, _, by rw [hexec, hcase]; rfl⟩

end Divisions

theorem execDiv_next {s : State} {src : Src .word} {v : Word} (hv : s.readSrc src = .next v) (d : RegNo) :
    exec (.div d src) s =
      .next (s.divided (h := 16) (s.setLongReg d) (s.longReg d) (divCase 16 (s.longReg d).toInt v.toInt)) :=
  Res.andThen_of_next hv _

theorem execDivl_next {s : State} {src : Src .long} {v : Long} (hv : s.readSrc src = .next v) (d : RegNo) :
    exec (.divl d src) s =
      .next (s.divided (h := 32) (s.setQuadReg d) (s.quadReg d) (divCase 32 (s.quadReg d).toInt v.toInt)) :=
  Res.andThen_of_next hv _

/-- Settles O40: both lengths are one division of a double-length register. -/
theorem division : Obligations.Division := by
  intro s d
  refine ⟨fun src v hv => ?_, fun src v hv => ?_⟩
  · have hexec := execDiv_next hv d
    exact ⟨divided_by_zero hexec (s.setLongReg_longReg d), fun q rem hq =>
      ⟨divided_of_fits hexec (s.setLongReg_free d) hq, divided_of_tooLong hexec hq⟩⟩
  · have hexec := execDivl_next hv d
    exact ⟨divided_by_zero hexec (s.setQuadReg_quadReg d), fun q rem hq =>
      ⟨divided_of_fits hexec (s.setQuadReg_free d) hq, divided_of_tooLong hexec hq⟩⟩

/-! ## EXTS -/

/-- A sign extension keeps the low-order half. -/
theorem extractLsb'_signExtend {v w : Nat} (h : w ≤ v) (x : BitVec w) : (x.signExtend v).extractLsb' 0 w = x := by
  apply BitVec.eq_of_getLsbD_eq
  intro i hi
  rw [BitVec.getLsbD_extractLsb', BitVec.getLsbD_signExtend, Nat.zero_add, if_pos hi, decide_eq_true hi,
    decide_eq_true (hi.trans_le h), Bool.true_and, Bool.true_and]

/-- Settles O41: each form writes a sign extension. -/
theorem signExtension : Obligations.SignExtension := fun _ _ =>
  ⟨⟨_, extractLsb'_signExtend (by decide) _, BitVec.toInt_signExtend_of_le (by decide), rfl⟩,
    ⟨_, extractLsb'_signExtend (by decide) _, BitVec.toInt_signExtend_of_le (by decide), rfl⟩,
    ⟨_, extractLsb'_signExtend (by decide) _, BitVec.toInt_signExtend_of_le (by decide), rfl⟩⟩

end Sys2Proof.Machine
end


section
/-! SUPPORT. The flags of a logical result as the claims write them, one lemma for each shape of logical instruction, and the
statement of the family (42_logical.md). -/

namespace Sys2Proof.Machine

/-- P of a byte counts the ones by filtering in the model, by `countP` in the claims (R31). -/
theorem evenParity_eq_countP {w : Nat} (r : BitVec w) :
    evenParity r = decide ((List.range w).countP r.getLsbD % 2 = 0) := by
  rw [evenParity, beq_eq_decide, List.countP_eq_length_filter]

theorem Fcw.logic_eq_logicOf (W : Width) (f : Fcw) (r : BitVec W.bits) : f.logic W r = f.logicOf W r := by
  have hzs := f.setZS_eq r
  cases W with
  | byte => rw [Fcw.logic, hzs, evenParity_eq_countP]; rfl
  | word => exact hzs
  | long => exact hzs

section Widths

variable {s : State} {W : Width} {i : Instr} {d : RegNo} {dst : Dst}

theorem logics_of_logicTo {r : BitVec W.bits} (h : exec i s = .next (logicTo W d r s)) : Logics W i d r s := by
  rw [Logics, h, logicTo, Fcw.logic_eq_logicOf]

theorem modifies_of_complement (h : exec i s = complement W dst s) :
    Modifies W i dst (fun v => ~~~v) (fun v => s.fcw.logicOf W (~~~v)) s :=
  modifies_of_modify h (fun _ => rfl) fun v => s.fcw.logic_eq_logicOf W (~~~v)

theorem testDst_next {v : BitVec W.bits} (hv : s.readDst W dst = .next v) :
    testDst W dst s = .next { s with fcw := s.fcw.logicOf W v } := by
  rw [testDst, Res.andThen_of_next hv, Fcw.logic_eq_logicOf]

end Widths

/-- Settles O42: AND, OR and XOR are `logicTo`, COM is `complement` and TEST is `testDst`, each at its width on the operand
read; the flags are `LogicFlags` of the result (R180). -/
theorem logical : Obligations.Logical := fun _ _ _ =>
  ⟨fun _ _ h => ⟨logics_of_logicTo (Res.andThen_of_next h _), logics_of_logicTo (Res.andThen_of_next h _),
      logics_of_logicTo (Res.andThen_of_next h _)⟩,
    fun _ _ h => ⟨logics_of_logicTo (Res.andThen_of_next h _), logics_of_logicTo (Res.andThen_of_next h _),
      logics_of_logicTo (Res.andThen_of_next h _)⟩,
    modifies_of_complement (W := .byte) rfl, modifies_of_complement (W := .word) rfl,
    fun _ => testDst_next (W := .byte), fun _ => testDst_next (W := .word), fun _ => testDst_next (W := .long)⟩

end Sys2Proof.Machine
end

section
/-! SUPPORT. Program control: the processor stack as a pointer register, what a push and a pop of an address do to it, jumps, and
from them the statements of the family (43_program_control.md). -/

namespace Sys2Proof.Machine

/-! ## Jumps -/

section Counters

variable {s : State} {W : Width} {r : RegNo}

/-- A counter that reaches 0 stays there without a jump (R192). -/
theorem decrementAndJump_of_eq_one (h : s.regW W r = 1) (p : BitVec 7) : decrementAndJump W r p s = s.setRegW W r 0 := by
  have hv : s.regW W r - 1 = 0 := sub_eq_zero.2 h
  rw [decrementAndJump, hv]
  exact if_pos rfl

/-- A counter that does not reach 0 goes back by twice the displacement (R192). -/
theorem decrementAndJump_of_ne_one (h : s.regW W r ≠ 1) (p : BitVec 7) :
    decrementAndJump W r p s =
      { s.setRegW W r (s.regW W r - 1) with pc := s.pc.add (-(2 * (0#9 ++ p))) } := by
  have hv : s.regW W r - 1 ≠ 0 := sub_ne_zero.2 h
  have hp : p.setWidth 16 = 0#9 ++ p := BitVec.setWidth_eq_append (by decide)
  rw [decrementAndJump, if_neg hv, State.relative, State.setRegW_pc, hp]
  rfl

end Counters

/-- Settles O45: a jump is the PC set; DJNZ and DBJNZ are one meaning at two widths, whose counter reaches 0 from 1. -/
theorem jumps : Obligations.Jumps := fun _ _ _ =>
  ⟨fun _ => rfl, fun _ => rfl, fun p =>
    ⟨fun h => congrArg _ (decrementAndJump_of_eq_one (W := .word) h p),
      fun h => congrArg _ (decrementAndJump_of_ne_one (W := .word) h p),
      fun h => congrArg _ (decrementAndJump_of_eq_one (W := .byte) h p),
      fun h => congrArg _ (decrementAndJump_of_ne_one (W := .byte) h p)⟩⟩

/-! ## The processor stack -/

section ProcessorStack

variable {s : State}

theorem State.stackReg_nonsegmented (h : s.segmented = false) : s.stackReg = 15 := by simp [State.stackReg, h]

theorem State.stackReg_segmented (h : s.segmented = true) : s.stackReg = 14 := if_pos h

/-- In both modes the processor stack moves by R15 alone (10_state.md R25). -/
theorem State.stepPointer_stackReg {p : RegNo} (hp : s.stackReg = p) (k : Word) :
    s.stepPointer p k = s.setReg 15 (s.reg 15 + k) := by
  rw [State.stepPointer, ← hp, State.offsetReg_stackReg]

theorem State.setReg_system (h : s.fcw.sys = true) (k : RegNo) (v : Word) :
    s.setReg k v = { s with regs := s.regs.set k.toNat v } := by
  simp [State.setReg, State.normal, h]

theorem State.stepPointer_stackReg_system (h : s.fcw.sys = true) (k : Word) :
    s.stepPointer s.stackReg k = { s with regs := s.regs.set 15 (s.regs[15] + k) } := by
  rw [State.stepPointer_stackReg rfl, State.setReg_system h, State.reg_system h]
  rfl

theorem State.stepPointer_stepPointer (s : State) (p : RegNo) (k l : Word) :
    (s.stepPointer p k).stepPointer p l = s.stepPointer p (k + l) := by
  have hoff : (s.stepPointer p k).offsetReg p = s.offsetReg p := by simp [State.offsetReg, State.stepPointer]
  rw [State.stepPointer, hoff, State.stepPointer, State.reg_setReg_same, State.setReg_setReg_same, add_assoc,
    State.stepPointer]

theorem State.readWord_stepPointer (s : State) (p : RegNo) (k : Word) (a : Addr) :
    (s.stepPointer p k).readWord a = s.readWord a :=
  s.readWord_setReg _ _ a

/-- A pop from a pointer that has moved by `k` reads `k` bytes on. -/
theorem State.pop_stepPointer {p : RegNo} {k v : Word} (h : s.readWord ((s.pointer p).add k) = .next v) :
    (s.stepPointer p k).pop .word p = .next (v, s.stepPointer p (k + 2)) := by
  have hread : (s.stepPointer p k).readWord ((s.stepPointer p k).pointer p) = .next v := by
    rw [State.pointer_stepPointer, State.readWord_stepPointer, h]
  exact s.stepPointer_stepPointer p k 2 ▸ State.pop_next (W := .word) hread

/-! ### Addresses on the stack -/

theorem State.pushAddr_nonsegmented (h : s.segmented = false) (a : Addr) :
    s.pushAddr a = s.push .word 15 a.off := by
  simp [State.pushAddr, h, State.stackReg]

theorem State.pushAddr_segmented (h : s.segmented = true) (a : Addr) :
    s.pushAddr a = s.push .long 14 (a.segWord ++ a.off) := by
  simp [State.pushAddr, h, State.stackReg]

theorem State.popAddr_nonsegmented (h : s.segmented = false) {v : Word} {t : State}
    (hpop : s.pop .word 15 = .next (v, t)) : s.popAddr = .next (⟨s.pc.seg, v⟩, t) := by
  rw [State.popAddr, if_neg (Bool.eq_false_iff.1 h), State.stackReg_nonsegmented h, hpop]
  rfl

theorem State.popAddr_segmented (h : s.segmented = true) {sg off : Word} {t : State}
    (hpop : s.pop .long 14 = .next (sg ++ off, t)) : s.popAddr = .next (Addr.ofWords sg off, t) := by
  have ha : Addr.ofWords ((sg ++ off).extractLsb' 16 16) ((sg ++ off).extractLsb' 0 16) = Addr.ofWords sg off :=
    congrArg₂ Addr.ofWords (extract_append_high sg off) (extract_append_low sg off)
  rw [State.popAddr, if_pos h, State.stackReg_segmented h, hpop, ← ha]
  rfl

end ProcessorStack

/-! ## CALL, CALR and RET -/

section Calls

variable {s t : State} {a : Addr}

/-- A call moves the stack pointer down, stores the return address there and jumps (R190, R191). -/
theorem callTo_next {W : Width} {p : RegNo} {v : BitVec W.bits} (hp : s.stackReg = p)
    (hpush : s.pushAddr s.pc = s.push W p v) (hcan : s.CanStore W ((s.pointer p).add (-(BitVec.ofNat 16 W.bytes))))
    (a : Addr) :
    ∃ t, (s.setReg 15 (s.reg 15 - BitVec.ofNat 16 W.bytes)).Stored W ((s.pointer p).add (-(BitVec.ofNat 16 W.bytes))) v t ∧
      callTo a s = .next (t.jump a) := by
  obtain ⟨t, hstored, ht⟩ := State.push_next v hcan
  rw [State.stepPointer_stackReg hp, ← BitVec.sub_eq_add_neg] at hstored
  exact ⟨t, hstored, by rw [callTo, hpush, ht, Res.andThen_next]⟩

theorem calls_of_callTo {i : Instr} (h : exec i s = callTo a s) : Calls i a s := by
  refine ⟨fun hseg sp hsp hcan => ?_, fun hseg sp hsp hcan => ?_⟩
  · subst hsp
    exact h ▸ callTo_next (State.stackReg_nonsegmented hseg) (State.pushAddr_nonsegmented hseg s.pc) hcan a
  · subst hsp
    exact h ▸ callTo_next (State.stackReg_segmented hseg) (State.pushAddr_segmented hseg s.pc) hcan a

theorem execRet_of_not {cc : Cond} (h : condHolds s.fcw cc = false) : execRet cc s = .next s := if_neg (Bool.eq_false_iff.1 h)

theorem execRet_of_popAddr {cc : Cond} (h : condHolds s.fcw cc = true) (hpop : s.popAddr = .next (a, t)) :
    execRet cc s = .next (t.jump a) := by
  rw [execRet, if_pos h, hpop, Res.andThen_next]

end Calls

/-- Settles O43: a call is a push of the PC, RET a pop of an address, both on the processor stack of the mode. -/
theorem callsAndReturns : Obligations.CallsAndReturns := by
  refine fun s cc => ⟨fun _ => calls_of_callTo rfl, fun _ => calls_of_callTo rfl, execRet_of_not, ?_, ?_⟩
  · intro hcc hseg p hp
    have hpop := State.pop_next (W := .word) hp
    rw [State.stepPointer_stackReg (State.stackReg_nonsegmented hseg)] at hpop
    exact execRet_of_popAddr hcc (State.popAddr_nonsegmented hseg hpop)
  · intro hcc hseg sg off hsg hoff
    have hread : s.readLong (s.pointer 14) = .next (sg ++ off) := by
      rw [State.readLong, hsg, Res.andThen_next, hoff, Res.andThen_next]
    have hpop := State.pop_next (W := .long) hread
    rw [State.stepPointer_stackReg (State.stackReg_segmented hseg)] at hpop
    exact execRet_of_popAddr hcc (State.popAddr_segmented hseg hpop)

/-! ## RET after a call -/

section Returns

variable {s t : State} {a : Addr}

theorem State.setReg_jump (s : State) (a : Addr) (k : RegNo) (v : Word) :
    (s.jump a).setReg k v = (s.setReg k v).jump a := by
  rw [State.setReg_of_mode (s := s) (t := s.jump a) rfl rfl, State.setReg]
  split
  · rfl
  · split <;> rfl

theorem State.stepPointer_jump (s : State) (a : Addr) (p : RegNo) (k : Word) :
    (s.jump a).stepPointer p k = (s.stepPointer p k).jump a :=
  s.setReg_jump a _ _

/-- A jump moves no pointer, unless pointers lie in the PC's segment and the jump leaves it (20_memory.md R74). -/
theorem State.pointer_jump (h : s.segmented = false → a.seg = s.pc.seg) (p : RegNo) :
    (s.jump a).pointer p = s.pointer p := by
  cases hseg : s.segmented with
  | true => rw [State.pointer_segmented hseg, State.pointer_segmented (s := s.jump a) hseg]; rfl
  | false =>
    rw [State.pointer_nonsegmented hseg, State.pointer_nonsegmented (s := s.jump a) hseg, State.jump_pc, h hseg]
    rfl

theorem State.read_jump (s : State) (a : Addr) (W : Width) (b : Addr) : (s.jump a).read W b = s.read W b := by
  cases W <;> rfl

/-- A pop after a jump in the PC's segment is the pop before it. -/
theorem State.pop_jump (h : s.segmented = false → a.seg = s.pc.seg) {W : Width} {p : RegNo} {v : BitVec W.bits}
    (hpop : s.pop W p = .next (v, t)) : (s.jump a).pop W p = .next (v, t.jump a) := by
  obtain ⟨x, hx, hnext⟩ := Res.andThen_eq_next.1 hpop
  cases hnext
  have hread : (s.jump a).read W ((s.jump a).pointer p) = .next v := by
    rw [State.pointer_jump h, State.read_jump, hx]
  exact s.stepPointer_jump a p _ ▸ State.pop_next hread

theorem State.push_keeps {W : Width} {p : RegNo} {v : BitVec W.bits} (h : s.push W p v = .next t) :
    t.par = s.par ∧ t.fcw = s.fcw ∧ t.pc = s.pc := by
  rw [(State.stored_of_push h).only]
  exact ⟨s.stepPointer_par p _, s.stepPointer_fcw p _, s.stepPointer_pc p _⟩

/-- After a call in reach of the mode, the return address is popped and the stack is as it was. -/
theorem popAddr_of_callTo (ha : s.segmented = false → a.seg = s.pc.seg) (h : callTo a s = .next t) :
    t.popAddr = .next (s.pc, ({ s with mem := t.mem } : State).jump a) := by
  obtain ⟨u, hu, hjump⟩ := Res.andThen_eq_next.1 h
  cases hjump
  have pop {W : Width} {p : RegNo} {v : BitVec W.bits} (hW : W ≠ .byte) (hpush : s.push W p v = .next u) :
      u.segmented = s.segmented ∧ (u.jump a).pop W p = .next (v, ({ s with mem := u.mem } : State).jump a) := by
    obtain ⟨hpar, hfcw, hpc⟩ := State.push_keeps hpush
    have hseg : u.segmented = s.segmented := by rw [State.segmented, State.isZ8001, hpar, hfcw]; rfl
    exact ⟨hseg, State.pop_jump (by rwa [hseg, hpc]) (popAfterPush s u W p v hW hpush)⟩
  cases hs : s.segmented with
  | true =>
    obtain ⟨hseg, hpop⟩ := pop (W := .long) (by decide) (State.pushAddr_segmented hs s.pc ▸ hu)
    rw [State.popAddr_segmented (s := u.jump a) (hseg.trans hs) hpop, Addr.ofWords_segWord, State.jump_mem]
  | false =>
    obtain ⟨hseg, hpop⟩ := pop (W := .word) (by decide) (State.pushAddr_nonsegmented hs s.pc ▸ hu)
    rw [State.popAddr_nonsegmented (s := u.jump a) (hseg.trans hs) hpop, State.jump_pc, ha hs, State.jump_mem]

end Returns

/-- Settles O44: a well-formed call stays in the segment without segmentation, so RET pops from where the call pushed. -/
theorem returnUndoesCall : Obligations.ReturnUndoesCall := by
  intro s t i hi hwf h
  obtain ⟨a, ha, hcall⟩ : ∃ a, (s.segmented = false → a.seg = s.pc.seg) ∧ exec i s = callTo a s := by
    obtain ⟨m, rfl⟩ | ⟨p, rfl⟩ := hi
    · exact ⟨s.ea m, fun hseg => State.ea_seg hseg (hseg ▸ hwf), rfl⟩
    · exact ⟨s.relative (-(2 * p.signExtend 16)), fun _ => rfl, rfl⟩
  exact execRet_of_popAddr rfl (popAddr_of_callTo ha (hcall.symm.trans h))

/-! ## IRET and LDPS -/

section StatusLoads

variable {s : State} {f sg off : Word}

theorem privileged_system (h : s.fcw.sys = true) (i : Instr) (effect : State → Res State) :
    privileged i effect s = effect s := if_pos h

/-- Without segments an exception frame is the identifier, the FCW and an offset (60_exceptions.md R349). -/
theorem returnFromException_nonsegmented (h : s.segmented = false)
    (hf : s.readWord ((s.pointer s.stackReg).add 2) = .next f)
    (hoff : s.readWord ((s.pointer s.stackReg).add 4) = .next off) :
    returnFromException s =
      .next { s.stepPointer s.stackReg 6 with fcw := .ofWord s.par f, pc := ⟨s.pc.seg, off⟩ } := by
  have hpopF : (s.stepPointer s.stackReg 2).pop .word s.stackReg = .next (f, s.stepPointer s.stackReg 4) :=
    State.pop_stepPointer hf
  have hpopOff : (s.stepPointer s.stackReg 4).pop .word s.stackReg = .next (off, s.stepPointer s.stackReg 6) :=
    State.pop_stepPointer hoff
  simp only [returnFromException, h, hpopF, hpopOff, Res.andThen_next, Bool.false_eq_true, if_false, State.near]

/-- With segments an exception frame is the identifier, the FCW and a segmented address (60_exceptions.md R349). -/
theorem returnFromException_segmented (h : s.segmented = true)
    (hf : s.readWord ((s.pointer s.stackReg).add 2) = .next f)
    (hsg : s.readWord ((s.pointer s.stackReg).add 4) = .next sg)
    (hoff : s.readWord ((s.pointer s.stackReg).add 6) = .next off) :
    returnFromException s =
      .next { s.stepPointer s.stackReg 8 with fcw := .ofWord s.par f, pc := Addr.ofWords sg off } := by
  have hpopF : (s.stepPointer s.stackReg 2).pop .word s.stackReg = .next (f, s.stepPointer s.stackReg 4) :=
    State.pop_stepPointer hf
  have hpopSg : (s.stepPointer s.stackReg 4).pop .word s.stackReg = .next (sg, s.stepPointer s.stackReg 6) :=
    State.pop_stepPointer hsg
  have hpopOff : (s.stepPointer s.stackReg 6).pop .word s.stackReg = .next (off, s.stepPointer s.stackReg 8) :=
    State.pop_stepPointer hoff
  simp only [returnFromException, h, hpopF, hpopSg, hpopOff, Res.andThen_next, if_true]

theorem loadProgramStatus_nonsegmented (h : s.segmented = false) {a : Addr} (hf : s.readWord a = .next f)
    (hoff : s.readWord (a.add 2) = .next off) :
    loadProgramStatus a s = .next { s with fcw := .ofWord s.par f, pc := ⟨s.pc.seg, off⟩ } := by
  simp only [loadProgramStatus, h, hf, hoff, Res.andThen_next, Bool.false_eq_true, if_false, State.near]

theorem loadProgramStatus_segmented (h : s.segmented = true) {a : Addr} (hf : s.readWord (a.add 2) = .next f)
    (hsg : s.readWord (a.add 4) = .next sg) (hoff : s.readWord (a.add 6) = .next off) :
    loadProgramStatus a s = .next { s with fcw := .ofWord s.par f, pc := Addr.ofWords sg off } := by
  simp only [loadProgramStatus, h, hf, hsg, hoff, Res.andThen_next, if_true]

end StatusLoads

/-- Settles O27: in system mode IRET and LDPS are their effects; the frame is on the system stack, which moves by R15. -/
theorem programStatusLoads : Obligations.ProgramStatusLoads := by
  intro s f hs
  have hiret : exec .iret s = returnFromException s := privileged_system hs .iret returnFromException
  have hldps (m : Mem) : exec (.ldps m) s = loadProgramStatus (s.ea m) s := privileged_system hs (.ldps m) _
  refine ⟨fun hseg => ⟨fun p hf hp => ?_, fun m p hf hp => ?_⟩,
    fun hseg => ⟨fun sg off hf hsg hoff => ?_, fun m sg off hf hsg hoff => ?_⟩⟩
  · rw [← State.stackReg_nonsegmented hseg] at hf hp
    rw [hiret, returnFromException_nonsegmented hseg hf hp, State.stepPointer_stackReg_system hs]
  · rw [hldps, loadProgramStatus_nonsegmented hseg hf hp]
  · rw [← State.stackReg_segmented hseg] at hf hsg hoff
    rw [hiret, returnFromException_segmented hseg hf hsg hoff, State.stepPointer_stackReg_system hs]
    rfl
  · rw [hldps, loadProgramStatus_segmented hseg hf hsg hoff]
    rfl

/-! ## SC and the extended instructions -/

section Traps

variable {s : State}

theorem instrWord_sc (v : Byte) : instrWord (.sc v) = 0x7F#8 ++ v :=
  calc (0x7F#8 ++ v.extractLsb' 4 4) ++ v.extractLsb' 0 4
    _ = 0x7F#8 ++ (v.extractLsb' 4 4 ++ v.extractLsb' 0 4) := BitVec.append_assoc
    _ = 0x7F#8 ++ v := congrArg (0x7F#8 ++ ·) (append_extract (n := 4) (m := 4) v)

theorem execSc_of_not_frameApart (h : ¬s.frameApart) (v : Byte) : execSc v s = .fault .storeIntoNextWord := by
  rw [← touchesNext_entryFrame, Bool.not_eq_false] at h
  exact if_pos h

/-- The word of an extended instruction is its only one, so both rules save the address of the next (log 25). -/
theorem State.trapPc_of_oneWord {i : Instr} {w : Word} (h : encode i = [w]) : s.trapPc i = s.pc := by
  cases hr : s.par.trapPcRule with
  | firstWordPlusTwo => rw [trapPc_firstWordPlusTwo s i w [] hr h]; exact Addr.add_zero _
  | nextInstruction => exact trapPc_nextInstruction s i hr

theorem execEpa_trap (h : s.fcw.epa = false) {op : EpaOp} {x : Byte} {w : Word} (hw : encode (.epa op x) = [w]) :
    execEpa op x s = enter .extended w s.pc s := by
  simp [execEpa, h, instrWord_of_encode _ w [] hw, State.trapPc_of_oneWord hw]

end Traps

/-- Settles O26: each trap is the entry of its kind with its word as identifier, and an entry that can be made is made. -/
theorem systemCallAndExtendedInstruction : Obligations.SystemCallAndExtendedInstruction := by
  refine fun s f p => ⟨fun v hcan hapart => ?_, fun v h => execSc_of_not_frameApart h v,
    fun op x w hw hepa hcan => ?_, fun op x hepa => ⟨fun hno => ?_, fun hunit => ?_⟩⟩
  · have hsc : exec (.sc v) s = enter .systemCall (0x7F#8 ++ v) s.pc s :=
      instrWord_sc v ▸ execSc_of_frameApart s v hapart
    exact hsc ▸ hcan.entered s.pc
  · have htrap : exec (.epa op x) s = enter .extended w s.pc s := execEpa_trap hepa hw
    exact htrap ▸ hcan.entered s.pc
  · exact (if_pos hepa).trans (if_neg (Bool.eq_false_iff.1 hno))
  · exact (if_pos hepa).trans (if_pos hunit)

end Sys2Proof.Machine
end

section
/-! SUPPORT. One bit of a value cleared or set, the dynamic bit number, one lemma for each shape of bit instruction, and the
statement of the family (44_bit.md). -/

namespace Sys2Proof.Machine

/-! ## One bit of a value -/

section Values

variable {w : Nat}

theorem bitChanged_clearBit (v : BitVec w) (n : Nat) : BitChanged v (clearBit v n) n false := by
  intro j hj
  by_cases h : j = n
  · simp [clearBit, h]
  · simp [clearBit, h, hj]

theorem bitChanged_setBit (v : BitVec w) (n : Nat) : BitChanged v (setBit v n) n true := by
  intro j hj
  by_cases h : j = n
  · simp [setBit, h, h ▸ hj]
  · simp [setBit, h, Ne.symm h]

end Values

theorem State.dynamicBit_byte (s : State) (r : RegNo) : s.dynamicBit .byte r = (s.reg r).toNat % 8 :=
  BitVec.extractLsb'_toNat ..

theorem State.dynamicBit_word (s : State) (r : RegNo) : s.dynamicBit .word r = (s.reg r).toNat % 16 :=
  BitVec.extractLsb'_toNat ..

/-! ## Shapes of bit instructions -/

section Widths

variable {s : State} {W : Width} {i : Instr} {dst : Dst} {b n : Nat} {x : Bool}

theorem testsBit_of_testBit (h : exec i s = testBit W dst b s) (hb : b = n) : TestsBit W i dst n s := by
  intro v hv
  rw [h, hb, testBit, Res.andThen_of_next hv, Bool.decide_eq_false]

/-- Reading an operand and writing it back with the bit changed changes the bit (R206, R207). -/
theorem changesBit_of_readWrite {f : BitVec W.bits → BitVec W.bits} (hf : ∀ v, BitChanged v (f v) n x)
    (h : exec i s = (s.readDst W dst).andThen fun v => s.writeDst W dst (f v)) : ChangesBit W i dst n x s := by
  intro v hv hcan
  obtain ⟨t, hwritten, hwrite⟩ := State.writeDst_next (f v) hcan
  exact ⟨f v, t, hf v, hwritten, by rw [h, Res.andThen_of_next hv, hwrite]⟩

theorem changesBit_of_resetBitOf (h : exec i s = resetBitOf W dst b s) (hb : b = n) : ChangesBit W i dst n false s :=
  changesBit_of_readWrite (fun v => bitChanged_clearBit v n) (hb ▸ h)

theorem changesBit_of_setBitOf (h : exec i s = setBitOf W dst b s) (hb : b = n) : ChangesBit W i dst n true s :=
  changesBit_of_readWrite (fun v => bitChanged_setBit v n) (hb ▸ h)

theorem modifies_of_testAndSet (h : exec i s = testAndSet W dst s) :
    Modifies W i dst (fun _ => BitVec.allOnes W.bits) (fun v => { s.fcw with s := decide (v.toInt < 0) }) s :=
  modifies_of_modify h (fun _ => rfl) fun v => by rw [BitVec.msb_eq_toInt]

end Widths

section Conditions

variable {s : State} {cc : Cond}

theorem testCondition_of_not_holds (h : condHolds s.fcw cc = false) (W : Width) (d : RegNo) :
    testCondition W cc d s = s :=
  if_neg (Bool.eq_false_iff.1 h)

theorem testCondition_of_holds (h : condHolds s.fcw cc = true) (W : Width) (d : RegNo) :
    testCondition W cc d s = s.setRegW W d (setBit (s.regW W d) 0) :=
  if_pos h

end Conditions

/-- Settles O46: each form is the shared meaning of BIT, RES, SET, TCC or TSET at its width; the bit number is the static field or
the low bits of the register. -/
theorem bits : Obligations.Bits := fun s _ d r _ _ _ =>
  ⟨⟨testsBit_of_testBit rfl rfl, testsBit_of_testBit rfl rfl,
      testsBit_of_testBit rfl (s.dynamicBit_byte r), testsBit_of_testBit rfl (s.dynamicBit_word r)⟩,
    ⟨changesBit_of_resetBitOf rfl rfl, changesBit_of_resetBitOf rfl rfl,
      changesBit_of_resetBitOf rfl (s.dynamicBit_byte r), changesBit_of_resetBitOf rfl (s.dynamicBit_word r)⟩,
    ⟨changesBit_of_setBitOf rfl rfl, changesBit_of_setBitOf rfl rfl,
      changesBit_of_setBitOf rfl (s.dynamicBit_byte r), changesBit_of_setBitOf rfl (s.dynamicBit_word r)⟩,
    fun h => ⟨congrArg _ (testCondition_of_not_holds h .byte d), congrArg _ (testCondition_of_not_holds h .word d)⟩,
    fun h => ⟨⟨_, bitChanged_setBit _ 0, congrArg _ (testCondition_of_holds h .byte d)⟩,
      ⟨_, bitChanged_setBit _ 0, congrArg _ (testCondition_of_holds h .word d)⟩⟩,
    modifies_of_testAndSet (W := .byte) rfl, modifies_of_testAndSet (W := .word) rfl⟩

end Sys2Proof.Machine
end

section
/-! SUPPORT. Rotates bit by bit and through the carry, the digits RLDB and RRDB move, what `n` one-position steps do to a value, and
the statements of the family (45_rotate_shift.md). -/

namespace Sys2Proof

theorem Width.two_lt_bits (W : Width) : 2 < W.bits := by
  cases W <;> decide

end Sys2Proof

namespace Sys2Proof.Machine

/-! ## One-position steps (R215) -/

section Values

variable {w : Nat}

theorem getLsbD_shiftIn (v : BitVec w) (low : Bool) {i : Nat} (hi : i < w) :
    (shiftIn v low).getLsbD i = if i = 0 then low else v.getLsbD (i - 1) := by
  by_cases h : i = 0
  · simp [shiftIn, h, h ▸ hi]
  · simp [shiftIn, -BitVec.getLsbD_eq_getElem, h, hi]

theorem getLsbD_shiftDown (v : BitVec w) (top : Bool) {i : Nat} (hi : i < w) :
    (shiftDown v top).getLsbD i = if i + 1 = w then top else v.getLsbD (i + 1) := by
  by_cases h : i + 1 = w
  · have hlast : w - 1 = i := by omega
    cases top <;> simp [shiftDown, h, hi, hlast, Nat.add_comm 1 i]
  · have hlast : ¬ w - 1 = i := by omega
    cases top <;> simp [shiftDown, h, hlast, Nat.add_comm 1 i]

theorem shl1_eq_shiftLeft (v : BitVec w) : shl1 v = v <<< 1 := by
  simp [shl1, shiftIn]

theorem shrl1_eq_ushiftRight (v : BitVec w) : shrl1 v = v >>> 1 := by
  simp [shrl1, shiftDown]

theorem shra1_eq_sshiftRight (v : BitVec w) : shra1 v = v.sshiftRight 1 := by
  refine BitVec.eq_of_getLsbD_eq fun i hi => ?_
  rw [shra1, getLsbD_shiftDown v _ hi, BitVec.getLsbD_sshiftRight, Nat.add_comm 1 i]
  by_cases h : i + 1 = w
  · simp [h, hi]
  · simp [-BitVec.getLsbD_eq_getElem, h, hi, show i + 1 < w by omega]

/-! ## Rotates -/

theorem getLsbD_rotateRight_mod (v : BitVec w) {r i : Nat} (hr : r < w) (hi : i < w) :
    (v.rotateRight r).getLsbD i = v.getLsbD ((i + r) % w) := by
  rw [BitVec.getLsbD_rotateRight, Nat.mod_eq_of_lt hr]
  by_cases h : i < w - r
  · rw [Nat.mod_eq_of_lt (by omega)]
    simp [h, Nat.add_comm]
  · rw [Nat.mod_eq_sub_mod (by omega), Nat.mod_eq_of_lt (by omega), show i + r - w = i - (w - r) by omega]
    simp [h, hi]

theorem rotl1_eq_rotateLeft (hw : 1 < w) (v : BitVec w) : rotl1 v = v.rotateLeft 1 := by
  refine BitVec.eq_of_getLsbD_eq fun i hi => ?_
  rw [rotl1, getLsbD_shiftIn v _ hi, BitVec.getLsbD_rotateLeft_of_le hw]
  by_cases h : i = 0
  · simp [h, BitVec.msb_eq_getLsbD_last]
  · simp [h, hi]

theorem rotr1_eq_rotateRight (hw : 1 < w) (v : BitVec w) : rotr1 v = v.rotateRight 1 := by
  refine BitVec.eq_of_getLsbD_eq fun i hi => ?_
  rw [rotr1, getLsbD_shiftDown v _ hi, getLsbD_rotateRight_mod v hw hi]
  by_cases h : i + 1 = w
  · rw [if_pos h, h, Nat.mod_self]
  · rw [if_neg h, Nat.mod_eq_of_lt (by omega)]

theorem rotateLeft_one_one (v : BitVec w) : (v.rotateLeft 1).rotateLeft 1 = v.rotateLeft 2 := by
  refine BitVec.eq_of_getMsbD_eq fun i hi => ?_
  simp [BitVec.getMsbD_rotateLeft, hi, Nat.mod_lt _ (Nat.zero_lt_of_lt hi), ← Nat.add_assoc]

theorem rotateRight_one_one (hw : 2 < w) (v : BitVec w) : (v.rotateRight 1).rotateRight 1 = v.rotateRight 2 := by
  have h1 : 1 < w := by omega
  refine BitVec.eq_of_getLsbD_eq fun i hi => ?_
  rw [getLsbD_rotateRight_mod _ h1 hi, getLsbD_rotateRight_mod _ h1 (Nat.mod_lt _ (by omega)),
    getLsbD_rotateRight_mod _ hw hi, Nat.mod_add_mod]

/-- A step of RLC is a turn of the number C followed by the register (R217). -/
theorem carry_append_rotateLeft (hw : 0 < w) (c : Bool) (v : BitVec w) :
    (BitVec.ofBool c ++ v).rotateLeft 1 = BitVec.ofBool v.msb ++ rotlc1 v c := by
  refine BitVec.eq_of_getLsbD_eq fun i hi => ?_
  rw [BitVec.getLsbD_rotateLeft_of_le (by omega), BitVec.getLsbD_append, BitVec.getLsbD_append, BitVec.getLsbD_append]
  by_cases h : i < w
  · rw [rotlc1, getLsbD_shiftIn v c h]
    by_cases h0 : i = 0
    · simp [h0, hw]
    · simp [-BitVec.getLsbD_eq_getElem, h, h0, hi, show i - 1 < w by omega]
  · obtain rfl : i = w := by omega
    simp [hw.ne', show i - 1 < i by omega, BitVec.msb_eq_getLsbD_last]

/-- A step of RRC is a turn of the number C followed by the register (R220). -/
theorem carry_append_rotateRight (hw : 0 < w) (c : Bool) (v : BitVec w) :
    (BitVec.ofBool c ++ v).rotateRight 1 = BitVec.ofBool (v.getLsbD 0) ++ rotrc1 v c := by
  refine BitVec.eq_of_getLsbD_eq fun i hi => ?_
  rw [getLsbD_rotateRight_mod _ (by omega) hi, BitVec.getLsbD_append, BitVec.getLsbD_append]
  by_cases h : i < w
  · rw [rotrc1, getLsbD_shiftDown v c h, Nat.mod_eq_of_lt (by omega)]
    by_cases h1 : i + 1 = w
    · simp [h, h1]
    · simp [-BitVec.getLsbD_eq_getElem, h, h1, show i + 1 < w by omega]
  · obtain rfl : i = w := by omega
    simp [hw, Nat.add_comm]

theorem setWidth_carry_append (c : Bool) (v : BitVec w) : (BitVec.ofBool c ++ v).setWidth w = v := by
  simp [BitVec.setWidth_append]

theorem msb_carry_append (c : Bool) (v : BitVec w) : (BitVec.ofBool c ++ v).msb = c := by
  simp [BitVec.msb_append]

end Values

section Turning

variable {W : Width} {i : Instr} {d : RegNo} {twice : Bool} {s : State} {step : Shifted W.bits → Shifted W.bits}
  {r1 r2 : BitVec W.bits} {c1 c2 : Bool}

/-- A rotate whose step puts `next` of value and carry for the value and `out` of the value for the carry: one and two steps of it
decide the result. -/
theorem turns_of_rotate (next : BitVec W.bits → Bool → BitVec W.bits) (out : BitVec W.bits → Bool)
    (hexec : exec i s = .next (rotate W step d twice s))
    (hstep : ∀ x, step x = ⟨next x.v x.carry, out x.v, x.changed || (next x.v x.carry).msb != x.v.msb⟩)
    (h1 : next (s.regW W d) s.fcw.c = r1) (hc1 : out (s.regW W d) = c1) (h2 : next r1 c1 = r2) (hc2 : out r1 = c2) :
    Turns W i d twice r1 r2 c1 c2 s := by
  have hfirst : step ⟨s.regW W d, s.fcw.c, false⟩ = ⟨r1, c1, r1.msb != (s.regW W d).msb⟩ := by
    rw [hstep, h1, hc1, Bool.false_or]
  have hsecond : step ⟨r1, c1, r1.msb != (s.regW W d).msb⟩ =
      ⟨r2, c2, r1.msb != (s.regW W d).msb || r2.msb != r1.msb⟩ := by
    rw [hstep, h2, hc2]
  cases twice with
  | false =>
    refine ⟨(rotate W step d false s).fcw.pv, (rotate W step d false s).free, hexec.trans ?_, fun _ => ?_, nofun⟩
    · simp only [rotate, steps, Bool.false_eq_true, if_false, hfirst]
      rfl
    · simp [rotate, rotatePv, steps, hfirst, bne, beq_eq_decide]
  | true =>
    refine ⟨(rotate W step d true s).fcw.pv, (rotate W step d true s).free, hexec.trans ?_, nofun, fun _ hone => ?_⟩
    · simp only [rotate, steps, if_true, hfirst, hsecond]
      rfl
    · have hone : (r1.msb != (s.regW W d).msb && r2.msb != r1.msb) = false := by simpa using hone
      have hpv : (rotate W step d true s).fcw.pv = (r1.msb != (s.regW W d).msb || r2.msb != r1.msb) := by
        simp only [rotate, rotatePv, steps, hfirst, hsecond, hone, Bool.true_and, Bool.false_eq_true, if_true, if_false]
      rw [hpv]
      simp [bne, beq_eq_decide]

theorem turns_of_rotl1 (hexec : exec i s = .next (rotate W (stepLeft fun v _ => rotl1 v) d twice s)) :
    Turns W i d twice ((s.regW W d).rotateLeft 1) ((s.regW W d).rotateLeft 2) ((s.regW W d).getLsbD (W.bits - 1))
      ((s.regW W d).getLsbD (W.bits - 2)) s := by
  have h1 : 1 < W.bits := Nat.lt_of_succ_lt W.two_lt_bits
  refine turns_of_rotate (fun v _ => rotl1 v) _ hexec (fun _ => rfl) (rotl1_eq_rotateLeft h1 _)
    (BitVec.msb_eq_getLsbD_last _) ?_ ?_
  · rw [rotl1_eq_rotateLeft h1, rotateLeft_one_one]
  · rw [BitVec.msb_rotateLeft, Nat.mod_eq_of_lt h1, BitVec.getMsbD_eq_getLsbD, decide_eq_true h1]
    rfl

theorem turns_of_rotr1 (hexec : exec i s = .next (rotate W (stepRight fun v _ => rotr1 v) d twice s)) :
    Turns W i d twice ((s.regW W d).rotateRight 1) ((s.regW W d).rotateRight 2) ((s.regW W d).getLsbD 0)
      ((s.regW W d).getLsbD 1) s := by
  have h1 : 1 < W.bits := Nat.lt_of_succ_lt W.two_lt_bits
  refine turns_of_rotate (fun v _ => rotr1 v) (·.getLsbD 0) hexec (fun _ => rfl) (rotr1_eq_rotateRight h1 _) rfl ?_ ?_
  · rw [rotr1_eq_rotateRight h1, rotateRight_one_one W.two_lt_bits]
  · rw [getLsbD_rotateRight_mod _ h1 W.bits_pos, Nat.zero_add, Nat.mod_eq_of_lt h1]

theorem turns_of_rotlc1 {x : BitVec (1 + W.bits)} (hx : x = BitVec.ofBool s.fcw.c ++ s.regW W d)
    (hexec : exec i s = .next (rotate W (stepLeft rotlc1) d twice s)) :
    Turns W i d twice ((x.rotateLeft 1).setWidth W.bits) ((x.rotateLeft 2).setWidth W.bits) (x.rotateLeft 1).msb
      (x.rotateLeft 2).msb s := by
  rw [← rotateLeft_one_one, hx, carry_append_rotateLeft W.bits_pos, carry_append_rotateLeft W.bits_pos,
    setWidth_carry_append, setWidth_carry_append, msb_carry_append, msb_carry_append]
  exact turns_of_rotate rotlc1 _ hexec (fun _ => rfl) rfl rfl rfl rfl

theorem turns_of_rotrc1 {x : BitVec (1 + W.bits)} (hx : x = BitVec.ofBool s.fcw.c ++ s.regW W d)
    (hexec : exec i s = .next (rotate W (stepRight rotrc1) d twice s)) :
    Turns W i d twice ((x.rotateRight 1).setWidth W.bits) ((x.rotateRight 2).setWidth W.bits) (x.rotateRight 1).msb
      (x.rotateRight 2).msb s := by
  have h2 : 2 < 1 + W.bits := Nat.lt_add_left 1 W.two_lt_bits
  rw [← rotateRight_one_one h2, hx, carry_append_rotateRight W.bits_pos, carry_append_rotateRight W.bits_pos,
    setWidth_carry_append, setWidth_carry_append, msb_carry_append, msb_carry_append]
  exact turns_of_rotate rotrc1 (·.getLsbD 0) hexec (fun _ => rfl) rfl rfl rfl rfl

end Turning

/-- Settles O47: one step of each rotate is a turn by one position, of the register or of C followed by the register. -/
theorem rotates : Obligations.Rotates := by
  rintro s d twice _ _ xb xw rfl rfl hxb hxw
  exact ⟨turns_of_rotl1 (W := .byte) rfl, turns_of_rotl1 (W := .word) rfl, turns_of_rotr1 (W := .byte) rfl,
    turns_of_rotr1 (W := .word) rfl, turns_of_rotlc1 (W := .byte) hxb rfl, turns_of_rotlc1 (W := .word) hxw rfl,
    turns_of_rotrc1 (W := .byte) hxb rfl, turns_of_rotrc1 (W := .word) hxw rfl⟩

/-! ## Digit rotates -/

theorem State.reg_eq_byteRegs (s : State) {k : RegNo} (hk : k.toNat < 8) :
    s.reg k = s.byteReg k ++ s.byteReg (k + 8) := by
  obtain ⟨hmsb, hhome⟩ := byteHome_of_lt hk
  obtain ⟨hmsb', hhome'⟩ : (k + 8).msb = true ∧ byteHome (k + 8) = k := by revert k; decide
  rw [State.byteReg, State.byteReg, hhome, hhome', hmsb, hmsb']
  exact (append_extract (n := 8) (m := 8) (s.reg k)).symm

/-- R8 to R15 have no byte registers (R24). -/
theorem State.reg_setByteReg_of_le (s : State) (j : RegNo) (v : Byte) {k : RegNo} (hk : 8 ≤ k.toNat) :
    (s.setByteReg j v).reg k = s.reg k := by
  have hne : k ≠ byteHome j := by revert k j; decide
  rw [State.reg_setByteReg, if_neg hne]

/-- The byte registers and R8 to R15 are all the registers. -/
theorem State.reg_eq_of_byteReg_eq {s t : State} (hbyte : ∀ k, t.byteReg k = s.byteReg k)
    (hreg : ∀ k : RegNo, 8 ≤ k.toNat → t.reg k = s.reg k) (k : RegNo) : t.reg k = s.reg k := by
  by_cases hk : k.toNat < 8
  · rw [t.reg_eq_byteRegs hk, s.reg_eq_byteRegs hk, hbyte, hbyte]
  · exact hreg k (Nat.le_of_not_lt hk)

section Digits

variable {l r : RegNo}

theorem reg_digitRotate (l r : RegNo) (link src : Byte) (s : State) (k : RegNo) :
    (digitRotate l r link src s).reg k = ((s.setByteReg r src).setByteReg l link).reg k := by
  have hsys : (digitRotate l r link src s).fcw.sys = ((s.setByteReg r src).setByteReg l link).fcw.sys := by
    simp [digitRotate]
  refine State.reg_congr ?_ hsys ?_ ?_ ?_ k <;> rfl

theorem byteReg_digitRotate (l r : RegNo) (link src : Byte) (s : State) (k : RegNo) :
    (digitRotate l r link src s).byteReg k = if k = l then link else if k = r then src else s.byteReg k := by
  rw [State.byteReg, reg_digitRotate, ← State.byteReg, State.byteReg_setByteReg, State.byteReg_setByteReg]

theorem reg_digitRotate_of_le (l r : RegNo) (link src : Byte) (s : State) {k : RegNo} (hk : 8 ≤ k.toNat) :
    (digitRotate l r link src s).reg k = s.reg k := by
  rw [reg_digitRotate, State.reg_setByteReg_of_le _ _ _ hk, State.reg_setByteReg_of_le _ _ _ hk]

/-- A second digit rotate that writes the bytes the registers held before the first gives every register back. -/
theorem reg_digitRotate_digitRotate (l r : RegNo) (link src : Byte) (s : State) (k : RegNo) :
    (digitRotate l r (s.byteReg l) (s.byteReg r) (digitRotate l r link src s)).reg k = s.reg k := by
  refine State.reg_eq_of_byteReg_eq (fun k => ?_) (fun k hk => ?_) k
  · rw [byteReg_digitRotate, byteReg_digitRotate]
    split_ifs with hl hr
    · rw [hl]
    · rw [hr]
    · rfl
  · rw [reg_digitRotate_of_le _ _ _ _ _ hk, reg_digitRotate_of_le _ _ _ _ _ hk]

theorem exec_rldb_of_ne (h : l ≠ r) (s : State) :
    exec (.rldb l r) s = .next (digitRotate l r ((s.byteReg l).extractLsb' 4 4 ++ (s.byteReg r).extractLsb' 4 4)
      ((s.byteReg r).extractLsb' 0 4 ++ (s.byteReg l).extractLsb' 0 4) s) :=
  if_neg h

theorem exec_rrdb_of_ne (h : l ≠ r) (s : State) :
    exec (.rrdb l r) s = .next (digitRotate l r ((s.byteReg l).extractLsb' 4 4 ++ (s.byteReg r).extractLsb' 0 4)
      ((s.byteReg l).extractLsb' 0 4 ++ (s.byteReg r).extractLsb' 4 4) s) :=
  if_neg h

/-- RRDB puts the halves RLDB moved back together. -/
theorem exec_rrdb_digitRotate (h : l ≠ r) (x y : Byte) (s : State) :
    exec (.rrdb l r) (digitRotate l r (x.extractLsb' 4 4 ++ y.extractLsb' 4 4) (y.extractLsb' 0 4 ++ x.extractLsb' 0 4) s) =
      .next (digitRotate l r x y
        (digitRotate l r (x.extractLsb' 4 4 ++ y.extractLsb' 4 4) (y.extractLsb' 0 4 ++ x.extractLsb' 0 4) s)) := by
  rw [exec_rrdb_of_ne h, byteReg_digitRotate, byteReg_digitRotate, if_pos rfl, if_neg h.symm, if_pos rfl,
    extract_append_high, extract_append_low, extract_append_low, extract_append_high, append_extract (n := 4) (m := 4),
    append_extract (n := 4) (m := 4)]

theorem reg_rrdb_rldb {s t u : State} (h : l ≠ r) (ht : exec (.rldb l r) s = .next t)
    (hu : exec (.rrdb l r) t = .next u) (k : RegNo) : u.reg k = s.reg k := by
  rw [exec_rldb_of_ne h] at ht
  cases ht
  rw [exec_rrdb_digitRotate h] at hu
  cases hu
  exact reg_digitRotate_digitRotate l r _ _ s k

end Digits

/-- Settles O48: both are `digitRotate`, and the second writes back what the first replaced. -/
theorem digitRotates : Obligations.DigitRotates := by
  rintro s l r _ _ rfl rfl
  refine ⟨fun h => ⟨if_pos h, if_pos h⟩, fun h => ⟨_, _, _, _, rfl, rfl, exec_rldb_of_ne h s⟩,
    fun h => ⟨_, _, _, _, rfl, rfl, exec_rrdb_of_ne h s⟩, fun t u ht hu => ?_⟩
  have hne : l ≠ r := fun h => by
    have hrefused : exec (.rldb l r) s = .refused .sameDigitRegister := if_pos h
    exact nomatch hrefused.symm.trans ht
  exact reg_rrdb_rldb hne ht hu

/-! ## `n` steps of a shift -/

section Steps

variable {w : Nat}

theorem steps_succ (step : Shifted w → Shifted w) (n : Nat) (x : Shifted w) :
    steps step (n + 1) x = step (steps step n x) := by
  induction n generalizing x with
  | zero => rfl
  | succ n ih => exact ih (step x)

theorem steps_leftShift_v (n : Nat) (x : Shifted w) : (steps leftShift n x).v = x.v <<< n := by
  induction n with
  | zero => simp [steps]
  | succ n ih => rw [steps_succ, BitVec.shiftLeft_add, ← ih]; exact shl1_eq_shiftLeft _

theorem steps_arithRight_v (n : Nat) (x : Shifted w) : (steps arithRight n x).v = x.v.sshiftRight n := by
  induction n with
  | zero => simp [steps]
  | succ n ih => rw [steps_succ, BitVec.sshiftRight_add, ← ih]; exact shra1_eq_sshiftRight _

theorem steps_logicRight_v (n : Nat) (x : Shifted w) : (steps logicRight n x).v = x.v >>> n := by
  induction n with
  | zero => simp [steps]
  | succ n ih => rw [steps_succ, BitVec.shiftRight_add, ← ih]; exact shrl1_eq_ushiftRight _

theorem steps_leftShift_carry {n : Nat} (hpos : 1 ≤ n) (hn : n ≤ w) (x : Shifted w) :
    (steps leftShift n x).carry = x.v.getLsbD (w - n) := by
  obtain ⟨n, rfl⟩ := Nat.exists_eq_add_of_le' hpos
  have hout : (steps leftShift (n + 1) x).carry = (x.v <<< n).msb := by rw [steps_succ, ← steps_leftShift_v]; rfl
  rw [hout, BitVec.msb_shiftLeft, BitVec.getMsbD_eq_getLsbD, decide_eq_true (Nat.lt_of_succ_le hn), Bool.true_and,
    Nat.sub_sub, Nat.add_comm]

theorem steps_arithRight_carry {n : Nat} (hpos : 1 ≤ n) (hn : n ≤ w) (x : Shifted w) :
    (steps arithRight n x).carry = x.v.getLsbD (n - 1) := by
  obtain ⟨n, rfl⟩ := Nat.exists_eq_add_of_le' hpos
  have hout : (steps arithRight (n + 1) x).carry = (x.v.sshiftRight n).getLsbD 0 := by
    rw [steps_succ, ← steps_arithRight_v]; rfl
  rw [hout, BitVec.getLsbD_sshiftRight, Nat.add_zero, if_pos (Nat.lt_of_succ_le hn), decide_eq_false (by omega)]
  rfl

theorem steps_logicRight_carry {n : Nat} (hpos : 1 ≤ n) (x : Shifted w) :
    (steps logicRight n x).carry = x.v.getLsbD (n - 1) := by
  obtain ⟨n, rfl⟩ := Nat.exists_eq_add_of_le' hpos
  have hout : (steps logicRight (n + 1) x).carry = (x.v >>> n).getLsbD 0 := by
    rw [steps_succ, ← steps_logicRight_v]; rfl
  rw [hout, BitVec.getLsbD_ushiftRight]
  rfl

/-! ## Signed overflow of a left shift -/

theorem shiftLeft_one_eq_ofInt (v : BitVec w) : v <<< 1 = BitVec.ofInt w (v.toInt * 2) := by
  rw [mul_two, BitVec.ofInt_add, BitVec.ofInt_toInt]
  exact BitVec.eq_of_toNat_eq (by rw [BitVec.toNat_shiftLeft, BitVec.toNat_add, Nat.shiftLeft_eq, pow_one, mul_two])

theorem msb_shiftLeft_one_bne (hw : 0 < w) (v : BitVec w) : ((v <<< 1).msb != v.msb) = tooLong w (v.toInt * 2) := by
  have hlo := v.le_toInt
  have hhi := v.toInt_lt
  have hpow : (2 ^ w : Int) = 2 * 2 ^ (w - 1) := (mul_pow_sub_one hw.ne' 2).symm
  have hneg : decide (v.toInt * 2 < 0) = decide (v.toInt < 0) := decide_eq_decide.2 (by omega)
  rw [shiftLeft_one_eq_ofInt, msb_ofInt hw (by omega) (by omega), BitVec.msb_eq_toInt, hneg]
  cases tooLong w (v.toInt * 2) <;> cases decide (v.toInt < 0) <;> rfl

theorem toInt_shiftLeft_one (hw : 0 < w) {v : BitVec w} (h : tooLong w (v.toInt * 2) = false) :
    (v <<< 1).toInt = v.toInt * 2 := by
  obtain ⟨hlo, hhi⟩ := not_or.1 (of_decide_eq_false h)
  rw [shiftLeft_one_eq_ofInt]
  exact BitVec.toInt_ofInt_eq_self hw (not_lt.1 hlo) (not_le.1 hhi)

theorem tooLong_mul_two_pow {x : Int} (n : Nat) (h : tooLong w x = true) : tooLong w (x * 2 ^ n) = true := by
  have hone : (1 : Int) ≤ 2 ^ n := one_le_pow₀ (by decide)
  have hpos : (0 : Int) < 2 ^ (w - 1) := by positivity
  refine decide_eq_true ((of_decide_eq_true h).imp (fun hlo => ?_) fun hhi => ?_)
  · have hx : x ≤ 0 := by omega
    exact (mul_le_of_one_le_right hx hone).trans_lt hlo
  · exact hhi.trans (le_mul_of_one_le_right (hpos.le.trans hhi) hone)

/-- The sign bit changes at one of `n` steps exactly when the value times 2^n does not fit: a step that keeps the sign doubles the
signed value, and what is too long once stays so (R214). -/
theorem steps_leftShift_changed (hw : 0 < w) (n : Nat) (x : Shifted w) :
    (steps leftShift n x).changed = (x.changed || tooLong w (x.v.toInt * 2 ^ n)) := by
  induction n generalizing x with
  | zero =>
    have hlo := x.v.le_toInt
    have hhi := x.v.toInt_lt
    have hfits : tooLong w x.v.toInt = false := decide_eq_false (by omega)
    rw [pow_zero, mul_one, hfits, Bool.or_false]
    rfl
  | succ n ih =>
    have hv : (leftShift x).v = x.v <<< 1 := shl1_eq_shiftLeft _
    have hchanged : (leftShift x).changed = (x.changed || tooLong w (x.v.toInt * 2)) := by
      rw [← msb_shiftLeft_one_bne hw, ← hv]
      rfl
    rw [steps, ih, hchanged, hv, Int.pow_succ', ← Int.mul_assoc]
    cases hlong : tooLong w (x.v.toInt * 2) with
    | false => rw [toInt_shiftLeft_one hw hlong, Bool.or_false]
    | true => rw [tooLong_mul_two_pow n hlong, Bool.or_true, Bool.true_or]

end Steps

/-! ## Shifts of a register -/

section Shifting

variable {W : Width} {arith : Bool} {i : Instr} {d r : RegNo} {n : Nat} {s t : State}

theorem shiftC_of_pos (hpos : 1 ≤ n) (carry : Bool) (free : Nat) : shiftC n carry free = carry :=
  if_neg (Nat.ne_of_gt hpos)

theorem shiftedLeft_arithShift (hn : n ≤ W.bits) : ShiftedLeft W true d n s (arithShift W leftShift true d n s) := by
  refine ⟨(arithShift W leftShift true d n s).fcw.c, (arithShift W leftShift true d n s).fcw.pv,
    (arithShift W leftShift true d n s).free, ?_, fun hpos => ?_, fun _ => ?_⟩
  · simp only [arithShift, steps_leftShift_v]
    rfl
  · exact (shiftC_of_pos hpos _ _).trans (steps_leftShift_carry hpos hn _)
  · exact steps_leftShift_changed W.bits_pos n _

theorem shiftedLeft_logicShift (hn : n ≤ W.bits) : ShiftedLeft W false d n s (logicShift W leftShift d n s) := by
  refine ⟨(logicShift W leftShift d n s).fcw.c, (logicShift W leftShift d n s).fcw.pv,
    (logicShift W leftShift d n s).free, ?_, fun hpos => ?_, nofun⟩
  · simp only [logicShift, steps_leftShift_v]
    rfl
  · exact (shiftC_of_pos hpos _ _).trans (steps_leftShift_carry hpos hn _)

theorem shiftedRight_arithShift (hpos : 1 ≤ n) (hn : n ≤ W.bits) :
    ShiftedRight W true d n s (arithShift W arithRight false d n s) := by
  refine ⟨false, (arithShift W arithRight false d n s).free, ?_, fun _ => rfl⟩
  simp only [arithShift, steps_arithRight_v, steps_arithRight_carry hpos hn, shiftC_of_pos hpos]
  rfl

theorem shiftedRight_logicShift (hpos : 1 ≤ n) : ShiftedRight W false d n s (logicShift W logicRight d n s) := by
  refine ⟨(logicShift W logicRight d n s).fcw.pv, (logicShift W logicRight d n s).free, ?_, nofun⟩
  simp only [logicShift, steps_logicRight_v, steps_logicRight_carry hpos, shiftC_of_pos hpos]
  rfl

/-- `t` is `s` but for the register, C, Z, S and V: all that a shift may change. -/
def RegisterAndFlagsOnly (W : Width) (d : RegNo) (s t : State) : Prop :=
  ∃ v c z sg pv m, t = { s.setRegW W d v with fcw := { s.fcw with c := c, z := z, s := sg, pv := pv }, free := m }

theorem ShiftedLeft.registerAndFlagsOnly (h : ShiftedLeft W arith d n s t) : RegisterAndFlagsOnly W d s t := by
  obtain ⟨c, pv, m, ht, -, -⟩ := h
  exact ⟨_, _, _, _, _, _, ht⟩

theorem ShiftedRight.registerAndFlagsOnly (h : ShiftedRight W arith d n s t) : RegisterAndFlagsOnly W d s t := by
  obtain ⟨pv, m, ht, -⟩ := h
  exact ⟨_, _, _, _, _, _, ht⟩

theorem registerAndFlagsOnly_shiftOutOfRange : RegisterAndFlagsOnly W d s (shiftOutOfRange W d s) :=
  ⟨_, _, _, _, _, _, rfl⟩

/-- A dynamic shift by the count `k`, `left` and `right` being its shifts by a count in range. -/
theorem shiftsDynamically_of_cases (left right : Nat → State) {k : Int} (hk : (s.reg r).toInt = k)
    (hexec : exec i s = .next (if k < -(W.bits : Int) ∨ (W.bits : Int) < k then shiftOutOfRange W d s
      else if 0 ≤ k then left k.toNat else right (-k).toNat))
    (hleft : ∀ n ≤ W.bits, ShiftedLeft W arith d n s (left n))
    (hright : ∀ n, 1 ≤ n → n ≤ W.bits → ShiftedRight W arith d n s (right n)) : ShiftsDynamically W arith i d r s := by
  rw [ShiftsDynamically, hk]
  refine ⟨_, hexec, fun n hn hkn => ?_, fun n hpos hn hkn => ?_, ?_⟩
  · rw [hkn, if_neg (by omega), if_pos (by omega), Int.toNat_natCast]
    exact hleft n hn
  · rw [hkn, if_neg (by omega), if_neg (by omega), Int.neg_neg, Int.toNat_natCast]
    exact hright n hpos hn
  · by_cases hout : k < -(W.bits : Int) ∨ (W.bits : Int) < k
    · rw [if_pos hout]
      exact registerAndFlagsOnly_shiftOutOfRange
    · rw [if_neg hout]
      by_cases hsign : 0 ≤ k
      · rw [if_pos hsign]
        exact (hleft _ (by omega)).registerAndFlagsOnly
      · rw [if_neg hsign]
        exact (hright _ (by omega) (by omega)).registerAndFlagsOnly

theorem shiftsDynamically_arith (hexec : exec i s = .next (dynamicArith W d r s)) : ShiftsDynamically W true i d r s :=
  shiftsDynamically_of_cases (arithShift W leftShift true d · s) (arithShift W arithRight false d · s) rfl hexec
    (fun _ => shiftedLeft_arithShift) fun _ => shiftedRight_arithShift

theorem shiftsDynamically_logic (hexec : exec i s = .next (dynamicLogic W d r s)) : ShiftsDynamically W false i d r s :=
  shiftsDynamically_of_cases (logicShift W leftShift d · s) (logicShift W logicRight d · s) rfl hexec
    (fun _ => shiftedLeft_logicShift) fun _ hpos _ => shiftedRight_logicShift hpos

end Shifting

/-- Settles O49: each form is the arithmetic or the logical shift of its width, to the left or to the right. -/
theorem staticShifts : Obligations.StaticShifts := fun _ _ _ =>
  ⟨fun hn => ⟨⟨_, rfl, shiftedLeft_arithShift (W := .byte) hn⟩, ⟨_, rfl, shiftedLeft_logicShift (W := .byte) hn⟩,
      fun hpos => ⟨_, rfl, shiftedRight_arithShift (W := .byte) hpos hn⟩,
      fun hpos => ⟨_, rfl, shiftedRight_logicShift (W := .byte) hpos⟩⟩,
    fun hn => ⟨⟨_, rfl, shiftedLeft_arithShift (W := .word) hn⟩, ⟨_, rfl, shiftedLeft_logicShift (W := .word) hn⟩,
      fun hpos => ⟨_, rfl, shiftedRight_arithShift (W := .word) hpos hn⟩,
      fun hpos => ⟨_, rfl, shiftedRight_logicShift (W := .word) hpos⟩⟩,
    fun hn => ⟨⟨_, rfl, shiftedLeft_arithShift (W := .long) hn⟩, ⟨_, rfl, shiftedLeft_logicShift (W := .long) hn⟩,
      fun hpos => ⟨_, rfl, shiftedRight_arithShift (W := .long) hpos hn⟩,
      fun hpos => ⟨_, rfl, shiftedRight_logicShift (W := .long) hpos⟩⟩⟩

/-- Settles O50: a count in range is a static shift's, and one out of range leaves all but the register and the flags. -/
theorem dynamicShifts : Obligations.DynamicShifts := fun _ _ _ =>
  ⟨shiftsDynamically_arith rfl, shiftsDynamically_arith rfl, shiftsDynamically_arith rfl, shiftsDynamically_logic rfl,
    shiftsDynamically_logic rfl, shiftsDynamically_logic rfl⟩

end Sys2Proof.Machine
end

section
/-! SUPPORT. One iteration of a block instruction: the registers it names are separate, its pointers step, its counter counts and it
stays or goes on; and the statements of the family (46_block_string.md). -/

namespace Sys2Proof.Machine

/-! ## Flags and free values drawn before a register is written -/

section Flags

variable {s : State} {f : Fcw}

theorem State.reg_withFcwFree (hsys : f.sys = s.fcw.sys) (n : Nat) (k : RegNo) :
    State.reg { s with fcw := f, free := n } k = s.reg k :=
  State.reg_congr (s := s) (t := { s with fcw := f, free := n }) rfl hsys rfl rfl rfl k

/-- Flags and free values go in either order with a register write, as long as the mode stays. -/
theorem State.setReg_withFcwFree (hsys : f.sys = s.fcw.sys) (n : Nat) (k : RegNo) (v : Word) :
    State.setReg { s with fcw := f, free := n } k v = { s.setReg k v with fcw := f, free := n } := by
  have hnormal : State.normal { s with fcw := f, free := n } = s.normal := by rw [State.normal, hsys]; rfl
  rw [State.setReg_of_mode hnormal rfl, State.setReg]
  split
  · rfl
  · split <;> rfl

theorem State.stepPointer_withFcwFree (hsys : f.sys = s.fcw.sys) (hseg : f.seg = s.fcw.seg) (n : Nat) (p : RegNo)
    (k : Word) :
    State.stepPointer { s with fcw := f, free := n } p k = { s.stepPointer p k with fcw := f, free := n } := by
  have hoff : State.offsetReg { s with fcw := f, free := n } p = s.offsetReg p := by
    rw [State.offsetReg, State.segmented, hseg]; rfl
  rw [State.stepPointer, hoff, State.reg_withFcwFree hsys, State.setReg_withFcwFree hsys, State.stepPointer]

/-- The flags of a comparison: Z as given, C and S any value (R237). -/
theorem State.compareFlags_eq (s : State) (hit : Bool) :
    ∃ c sg n, s.compareFlags hit = { s with fcw := { s.fcw with c := c, z := hit, s := sg }, free := n } :=
  ⟨_, _, _, rfl⟩

end Flags

/-! ## Separate registers (R238) -/

section Separate

variable {s : State} {regs : List RegNo} {x : Res State} {d p r : RegNo}

theorem ifOverlap_of_not_nodup (h : ¬regs.Nodup) :
    (if overlap regs then .refused .registerOverlap else x) = .refused .registerOverlap :=
  if_pos (by rw [overlap, decide_eq_false h]; rfl)

theorem ifOverlap_of_nodup (h : regs.Nodup) : (if overlap regs then .refused .registerOverlap else x) = x :=
  if_neg (by simp [overlap, h])

theorem State.offsetReg_mem_pointerRegs (s : State) (p : RegNo) : s.offsetReg p ∈ s.pointerRegs p := by
  cases h : s.segmented <;> simp [State.offsetReg, State.pointerRegs, h]

theorem State.ne_offsetReg (h : r ∉ s.pointerRegs p) : r ≠ s.offsetReg p :=
  fun hr => h (hr ▸ s.offsetReg_mem_pointerRegs p)

/-- The counter and the offset registers of two pointers are three registers. -/
theorem State.offsetRegs_ne (h : (r :: s.pointerRegs d ++ s.pointerRegs p).Nodup) :
    r ≠ s.offsetReg d ∧ r ≠ s.offsetReg p ∧ s.offsetReg p ≠ s.offsetReg d := by
  obtain ⟨hfirst, -, hdisjoint⟩ := List.nodup_append.1 h
  exact ⟨State.ne_offsetReg (List.nodup_cons.1 hfirst).1,
    hdisjoint r (.head _) _ (s.offsetReg_mem_pointerRegs p),
    (hdisjoint _ (.tail _ (s.offsetReg_mem_pointerRegs d)) _ (s.offsetReg_mem_pointerRegs p)).symm⟩

end Separate

/-! ## Pointers and the counter (R235, R236) -/

section Iteration

variable {s : State} {f : Fcw} {d p r : RegNo}

@[simp] theorem State.stepPointer_offsetReg (s : State) (p q : RegNo) (k : Word) :
    (s.stepPointer p k).offsetReg q = s.offsetReg q := by
  simp [State.offsetReg, State.stepPointer]

theorem State.reg_stepPointer_other (h : r ≠ s.offsetReg p) (k : Word) : (s.stepPointer p k).reg r = s.reg r :=
  s.reg_setReg_other _ h

@[simp] theorem State.stepPointer_nextPc (s : State) (p : RegNo) (k : Word) (finished : Bool) :
    (s.stepPointer p k).nextPc finished = s.nextPc finished := by
  simp [State.nextPc]

theorem State.againUnless_eq (s : State) (finished : Bool) :
    s.againUnless finished = { s with pc := s.nextPc finished } := by
  cases finished <;> rfl

/-- The end of an iteration: the counter counts down, and the instruction stays at itself unless it is `done` or the counter
is exhausted (R235, R236). -/
def State.countAndRepeat (s : State) (r : RegNo) (done : Bool) : State :=
  (s.countDown r).againUnless (done || (s.countDown r).exhausted r)

theorem counter_exhausted (v : Word) : (v - 1 == 0) = decide (v = 1) :=
  decide_eq_decide.2 sub_eq_zero

theorem State.countDown_withFcwFree (hsys : f.sys = s.fcw.sys) (n : Nat) (r : RegNo) :
    State.countDown { s with fcw := f, free := n } r =
      { s.setReg r (s.reg r - 1) with fcw := { f with pv := decide (s.reg r = 1) }, free := n } := by
  simp only [State.countDown, State.reg_withFcwFree hsys, State.setReg_withFcwFree hsys, counter_exhausted]

/-- What an iteration ends in, after the flags are set to `f`: V says whether the counter was 1, and so is exhausted. -/
theorem State.countAndRepeat_withFcwFree (hsys : f.sys = s.fcw.sys) (n : Nat) (r : RegNo) (done : Bool) :
    State.countAndRepeat { s with fcw := f, free := n } r done =
      { s.setReg r (s.reg r - 1) with
          fcw := { f with pv := decide (s.reg r = 1) }
          pc := s.nextPc (done || decide (s.reg r = 1))
          free := n } := by
  have hexhausted : (State.countDown { s with fcw := f, free := n } r).exhausted r = decide (s.reg r = 1) := by
    rw [State.countDown_withFcwFree hsys, State.exhausted, State.reg_withFcwFree (by simpa using hsys),
      State.reg_setReg_same, counter_exhausted]
  rw [State.countAndRepeat, hexhausted, State.countDown_withFcwFree hsys, State.againUnless_eq]
  simp [State.nextPc]

/-- An iteration with one pointer: the pointer steps and the counter, another register, counts down. -/
theorem State.countAndRepeat_stepPointer (hr : r ≠ s.offsetReg p) (hsys : f.sys = s.fcw.sys) (hseg : f.seg = s.fcw.seg)
    (n : Nat) (k : Word) (done : Bool) :
    State.countAndRepeat (State.stepPointer { s with fcw := f, free := n } p k) r done =
      { (s.setReg (s.offsetReg p) (s.reg (s.offsetReg p) + k)).setReg r (s.reg r - 1) with
          fcw := { f with pv := decide (s.reg r = 1) }
          pc := s.nextPc (done || decide (s.reg r = 1))
          free := n } := by
  rw [State.stepPointer_withFcwFree hsys hseg, State.countAndRepeat_withFcwFree (by simpa using hsys),
    State.reg_stepPointer_other hr, State.stepPointer_nextPc]
  rfl

/-- An iteration with two pointers: no step changes a register that a later one reads. -/
theorem State.countAndRepeat_stepPointers (hapart : (r :: s.pointerRegs d ++ s.pointerRegs p).Nodup)
    (hsys : f.sys = s.fcw.sys) (hseg : f.seg = s.fcw.seg) (n : Nat) (k : Word) (done : Bool) :
    State.countAndRepeat ((State.stepPointer { s with fcw := f, free := n } d k).stepPointer p k) r done =
      { ((s.setReg (s.offsetReg d) (s.reg (s.offsetReg d) + k)).setReg (s.offsetReg p)
          (s.reg (s.offsetReg p) + k)).setReg r (s.reg r - 1) with
          fcw := { f with pv := decide (s.reg r = 1) }
          pc := s.nextPc (done || decide (s.reg r = 1))
          free := n } := by
  obtain ⟨hrd, hrp, hpd⟩ := State.offsetRegs_ne hapart
  rw [State.stepPointer_withFcwFree hsys hseg, State.countAndRepeat_stepPointer (by simpa using hrp) (by simpa using hsys)
    (by simpa using hseg), State.stepPointer_offsetReg, State.reg_stepPointer_other hpd, State.reg_stepPointer_other hrd,
    State.stepPointer_nextPc]
  rfl

end Iteration

/-! ## The shared meanings, on operands that are read -/

section Elements

variable {s : State} {W : Width} {forward repeats : Bool} {d p r : RegNo} {cc : Cond}

theorem compareHolds_eq (W : Width) (f : Fcw) (a b : BitVec W.bits) (cc : Cond) :
    compareHolds f a b cc = condHolds (f.comparisonOf a b) cc := by
  rw [compareHolds, Fcw.arith_subW_false W.bits_pos]

theorem compareElement_next {m : BitVec W.bits} (hapart : (comparedReg W d :: r :: s.pointerRegs p).Nodup)
    (hm : s.read W (s.pointer p) = .next m) :
    compareElement W forward repeats d p r cc s = .next
      (((s.compareFlags (compareHolds s.fcw (s.regW W d) m cc)).stepPointer p (blockStep W forward)).countAndRepeat r
        (!repeats || compareHolds s.fcw (s.regW W d) m cc)) := by
  rw [compareElement, ifOverlap_of_nodup hapart, hm]
  rfl

theorem compareStrings_next {a b : BitVec W.bits} (hapart : (r :: s.pointerRegs d ++ s.pointerRegs p).Nodup)
    (ha : s.read W (s.pointer d) = .next a) (hb : s.read W (s.pointer p) = .next b) :
    compareStrings W forward repeats d p r cc s = .next
      ((((s.compareFlags (compareHolds s.fcw a b cc)).stepPointer d (blockStep W forward)).stepPointer p
        (blockStep W forward)).countAndRepeat r (!repeats || compareHolds s.fcw a b cc)) := by
  rw [compareStrings, ifOverlap_of_nodup hapart, hb, Res.andThen_next, ha]
  rfl

theorem moveElement_next {v : BitVec W.bits} {u : State} (hapart : (r :: s.pointerRegs d ++ s.pointerRegs p).Nodup)
    (hv : s.read W (s.pointer p) = .next v) (hu : s.store W (s.pointer d) v = .next u) :
    moveElement W forward repeats d p r s = .next
      (((u.freeZ.stepPointer d (blockStep W forward)).stepPointer p (blockStep W forward)).countAndRepeat r (!repeats)) := by
  rw [moveElement, ifOverlap_of_nodup hapart, hv, Res.andThen_next, hu]
  rfl

end Elements

/-! ## Shapes of block instructions -/

section Shapes

variable {W : Width} {forward repeats : Bool} {step : Word}

theorem searches_of_compareElement {i : RegNo → RegNo → RegNo → Cond → Instr} (hstep : blockStep W forward = step)
    (hi : ∀ d p r cc s, exec (i d p r cc) s = compareElement W forward repeats d p r cc s) :
    Searches W step repeats i := by
  intro s d p r cc
  rw [hi]
  refine ⟨ifOverlap_of_not_nodup, fun hapart m hm => ?_⟩
  obtain ⟨c, sg, n, hflags⟩ := s.compareFlags_eq (condHolds (s.fcw.comparisonOf (s.regW W d) m) cc)
  have hr : r ≠ s.offsetReg p := State.ne_offsetReg (List.nodup_cons.1 (List.nodup_cons.1 hapart).2).1
  refine ⟨c, sg, n, ?_⟩
  rw [compareElement_next hapart hm, compareHolds_eq, hstep, hflags, State.countAndRepeat_stepPointer hr] <;> rfl

theorem comparesStrings_of_compareStrings {i : RegNo → RegNo → RegNo → Cond → Instr} (hstep : blockStep W forward = step)
    (hi : ∀ d p r cc s, exec (i d p r cc) s = compareStrings W forward repeats d p r cc s) :
    ComparesStrings W step repeats i := by
  intro s d p r cc
  rw [hi]
  refine ⟨ifOverlap_of_not_nodup, fun hapart a b ha hb => ?_⟩
  obtain ⟨c, sg, n, hflags⟩ := s.compareFlags_eq (condHolds (s.fcw.comparisonOf a b) cc)
  refine ⟨c, sg, n, ?_⟩
  rw [compareStrings_next hapart ha hb, compareHolds_eq, hstep, hflags,
    State.countAndRepeat_stepPointers hapart] <;> rfl

/-- The store changes memory alone, so the pointers and the counter are as they were before it. -/
theorem movesElement_of_moveElement {i : RegNo → RegNo → RegNo → Instr} (hstep : blockStep W forward = step)
    (hi : ∀ d p r s, exec (i d p r) s = moveElement W forward repeats d p r s) : MovesElement W step repeats i := by
  intro s d p r
  rw [hi]
  refine ⟨ifOverlap_of_not_nodup, fun hapart v hv hcan => ?_⟩
  obtain ⟨u, hstored, hu⟩ := State.store_next v hcan
  obtain ⟨mem, rfl⟩ : ∃ mem, u = { s with mem := mem } := ⟨_, hstored.only⟩
  refine ⟨_, Config.freeBit s.free, s.free + 1, hstored, ?_⟩
  rw [moveElement_next hapart hv hu, hstep, State.freeZ,
    State.countAndRepeat_stepPointers (s := { s with mem := mem }) hapart] <;> rfl

end Shapes

/-- Settles O51: each form is `compareElement` or `compareStrings` at its width and direction, and both end alike. -/
theorem blockCompares : Obligations.BlockCompares := by
  refine ⟨?searches, ?strings⟩
  case searches => and_intros <;> exact searches_of_compareElement rfl fun _ _ _ _ _ => rfl
  case strings => and_intros <;> exact comparesStrings_of_compareStrings rfl fun _ _ _ _ _ => rfl

/-- Settles O52: each form is `moveElement` at its width and direction: a store, and then the end of an iteration. -/
theorem blockMove : Obligations.BlockMove := by
  unfold Obligations.BlockMove
  and_intros <;> exact movesElement_of_moveElement rfl fun _ _ _ _ => rfl

end Sys2Proof.Machine
end

section
/-! SUPPORT. Translate and translate-and-test: the registers an iteration keeps apart, the write of RH1, and the statement of the
family (47_translate.md). -/

namespace Sys2Proof.Machine

/-! ## Byte registers -/

section ByteRegisters

variable {s : State} {f : Fcw} {j k : RegNo}

theorem State.setByteReg_withFcwFree (hsys : f.sys = s.fcw.sys) (n : Nat) (k : RegNo) (v : Byte) :
    State.setByteReg { s with fcw := f, free := n } k v = { s.setByteReg k v with fcw := f, free := n } := by
  rw [State.setByteReg, State.reg_withFcwFree hsys]
  exact State.setReg_withFcwFree hsys n _ _

theorem State.reg_setByteReg_other (h : j ≠ byteHome k) (v : Byte) : (s.setByteReg k v).reg j = s.reg j :=
  s.reg_setReg_other _ h

@[simp] theorem State.setByteReg_offsetReg (s : State) (k p : RegNo) (v : Byte) :
    (s.setByteReg k v).offsetReg p = s.offsetReg p := by
  simp [State.offsetReg, State.setByteReg]

@[simp] theorem State.setByteReg_nextPc (s : State) (k : RegNo) (v : Byte) (finished : Bool) :
    (s.setByteReg k v).nextPc finished = s.nextPc finished := by
  simp [State.nextPc]

end ByteRegisters

/-! ## An iteration that writes RH1 -/

section Translate

variable {s u : State} {f : Fcw} {p table r : RegNo} {b v : Byte} {forward repeats : Bool}

/-- The counter and the pointer's offset are two registers, neither of them R1 (47_translate.md R256). -/
theorem State.TranslateApart.ne (h : s.TranslateApart p table r) :
    r ≠ 1 ∧ s.offsetReg p ≠ 1 ∧ r ≠ s.offsetReg p := by
  obtain ⟨hr, hrest⟩ := List.nodup_cons.1 h
  obtain ⟨-, -, hdisjoint⟩ := List.nodup_append.1 hrest
  have hp := List.mem_append_left (s.pointerRegs table) (s.offsetReg_mem_pointerRegs p)
  have h1 : (1 : RegNo) ∈ if s.segmented then [(0 : RegNo), 1] else [1] := by split <;> simp
  refine ⟨?_, hdisjoint _ hp _ h1, fun hrp => hr (hrp ▸ List.mem_append_left _ hp)⟩
  rintro rfl
  exact hr (List.mem_append_right _ h1)

/-- What an iteration ends in after RH1 is written: neither the counter nor the pointer is in R1. -/
theorem State.countAndRepeat_setByteReg (hapart : s.TranslateApart p table r) (hsys : f.sys = s.fcw.sys)
    (hseg : f.seg = s.fcw.seg) (x : Byte) (n : Nat) (k : Word) (done : Bool) :
    State.countAndRepeat (State.stepPointer { s.setByteReg rh1 x with fcw := f, free := n } p k) r done =
      { ((s.setByteReg rh1 x).setReg (s.offsetReg p) (s.reg (s.offsetReg p) + k)).setReg r (s.reg r - 1) with
          fcw := { f with pv := decide (s.reg r = 1) }
          pc := s.nextPc (done || decide (s.reg r = 1))
          free := n } := by
  obtain ⟨hr1, hp1, hrp⟩ := hapart.ne
  rw [State.countAndRepeat_stepPointer (by simpa using hrp) (by simpa using hsys) (by simpa using hseg),
    State.setByteReg_offsetReg, State.setByteReg_nextPc, State.reg_setByteReg_other (k := rh1) hp1,
    State.reg_setByteReg_other (k := rh1) hr1]

theorem State.lookup_eq (s : State) (table : RegNo) (b : Byte) :
    s.lookup table b = s.readByte ((s.pointer table).add (0#8 ++ b)) := by
  rw [State.lookup, BitVec.setWidth_eq_append (by decide)]
  rfl

theorem translateElement_next (hapart : s.TranslateApart p table r) (hb : s.readByte (s.pointer p) = .next b)
    (hv : s.readByte ((s.pointer table).add (0#8 ++ b)) = .next v) (hu : s.store .byte (s.pointer p) v = .next u) :
    translateElement forward repeats p table r s = .next
      ((u.freeZ.freeRh1.stepPointer p (blockStep .byte forward)).countAndRepeat r (!repeats)) := by
  rw [translateElement, ifOverlap_of_nodup (regs := s.translateRegs p table r) hapart, hb, Res.andThen_next,
    State.lookup_eq, hv, Res.andThen_next, hu]
  rfl

theorem translateTest_next (hapart : s.TranslateApart p table r) (hb : s.readByte (s.pointer p) = .next b)
    (hv : s.readByte ((s.pointer table).add (0#8 ++ b)) = .next v) :
    translateTest forward repeats p table r s = .next
      ((State.stepPointer { s.setByteReg rh1 v with fcw := { s.fcw with z := decide (v = 0) } } p
        (blockStep .byte forward)).countAndRepeat r (!repeats || decide (v ≠ 0))) := by
  have hnonzero : decide (v ≠ 0) = !(v == 0) := decide_not
  rw [translateTest, ifOverlap_of_nodup (regs := s.translateRegs p table r) hapart, hb, Res.andThen_next,
    State.lookup_eq, hv, hnonzero]
  rfl

/-- The free values of a translation: Z, and the byte in RH1 (47_translate.md R256, R257). -/
theorem State.freeRh1_freeZ (s : State) :
    ∃ z x n, s.freeZ.freeRh1 = { s.setByteReg rh1 x with fcw := { s.fcw with z := z }, free := n } := by
  refine ⟨Config.freeBit s.free, Config.freeValue 8 (s.free + 1), s.free + 2, ?_⟩
  rw [State.freeRh1, State.freeZ, State.setByteReg_withFcwFree]
  rfl

end Translate

/-! ## Shapes of translate instructions -/

section Shapes

variable {forward repeats : Bool} {step : Word} {i : RegNo → RegNo → RegNo → Instr}

/-- The store changes memory alone, so the pointers and the counter are as they were before it. -/
theorem translates_of_translateElement (hstep : blockStep .byte forward = step)
    (hi : ∀ p table r s, exec (i p table r) s = translateElement forward repeats p table r s) :
    Translates step repeats i := by
  intro s p table r
  rw [hi]
  refine ⟨ifOverlap_of_not_nodup, fun hapart b v hb hv hcan => ?_⟩
  obtain ⟨u, hstored, hu⟩ := State.store_next v hcan
  obtain ⟨mem, rfl⟩ : ∃ mem, u = { s with mem := mem } := ⟨_, hstored.only⟩
  obtain ⟨z, x, n, hfree⟩ := State.freeRh1_freeZ { s with mem := mem }
  refine ⟨_, z, x, n, hstored, ?_⟩
  rw [translateElement_next hapart hb hv hu, hstep, hfree,
    State.countAndRepeat_setByteReg (s := { s with mem := mem }) hapart] <;> rfl

theorem translatesAndTests_of_translateTest (hstep : blockStep .byte forward = step)
    (hi : ∀ p table r s, exec (i p table r) s = translateTest forward repeats p table r s) :
    TranslatesAndTests step repeats i := by
  intro s p table r
  rw [hi]
  refine ⟨ifOverlap_of_not_nodup, fun hapart b v hb hv => ?_⟩
  have hend := State.countAndRepeat_setByteReg (f := { s.fcw with z := decide (v = 0) }) hapart rfl rfl v
    (s.setByteReg rh1 v).free step (!repeats || decide (v ≠ 0))
  rw [translateTest_next hapart hb hv, hstep]
  exact congrArg Host.Outcome.next (hend.trans (by simp [rh1]))

end Shapes

/-- Settles O53: each form is `translateElement` or `translateTest` in its direction, and both end as a block instruction does. -/
theorem translate : Obligations.Translate := by
  refine ⟨?_, ?_, ?_, ?_, ?tests⟩
  case tests => and_intros <;> exact translatesAndTests_of_translateTest rfl fun _ _ _ _ => rfl
  all_goals exact translates_of_translateElement rfl fun _ _ _ _ => rfl

end Sys2Proof.Machine
end

section
/-! SUPPORT. Input and output: what one access leaves, and the statements of the family (48_io.md). -/

namespace Sys2Proof.Machine

/-! ## One access -/

section Access

variable {s : State} {space : IoSpace} {W : Width} {port : Word}

/-- The device queue, the I/O log and free values go in either order with a register write. -/
theorem State.setReg_withIo (s : State) (ioIn : List Word) (ioLog : List IoAccess) (n : Nat) (k : RegNo) (v : Word) :
    State.setReg { s with ioIn := ioIn, ioLog := ioLog, free := n } k v =
      { s.setReg k v with ioIn := ioIn, ioLog := ioLog, free := n } := by
  rw [State.setReg_of_mode (s := s) (t := { s with ioIn := ioIn, ioLog := ioLog, free := n }) rfl rfl, State.setReg]
  split
  · rfl
  · split <;> rfl

theorem State.setRegW_withIo (s : State) (ioIn : List Word) (ioLog : List IoAccess) (n : Nat) (W : Width) (k : RegNo)
    (v : BitVec W.bits) :
    State.setRegW { s with ioIn := ioIn, ioLog := ioLog, free := n } W k v =
      { s.setRegW W k v with ioIn := ioIn, ioLog := ioLog, free := n } := by
  cases W with
  | byte => exact s.setReg_withIo ioIn ioLog n _ _
  | word => exact s.setReg_withIo ioIn ioLog n k v
  | long =>
    rw [State.setRegW, State.setLongReg, s.setReg_withIo, (s.setReg k _).setReg_withIo]
    rfl

/-- Of a transferred word the operand's width counts, with zeros above it. -/
theorem ioValue_eq (W : Width) (v : Word) : ioValue W v = (v.setWidth W.bits).setWidth 16 := by
  cases W with
  | byte =>
    rw [ioValue, ← BitVec.setWidth_eq_extractLsb' (show 8 ≤ 16 by decide), BitVec.setWidth_eq_append (show 8 ≤ 16 by decide)]
    rfl
  | word => exact (BitVec.setWidth_eq v).symm
  | long => exact (BitVec.setWidth_setWidth_of_le v (show 16 ≤ 32 by decide)).symm

/-- An operand goes out as it is, with zeros above it. -/
theorem ioValue_toIo (v : BitVec W.bits) : ioValue W (toIo v) = v.setWidth 16 := by
  rw [ioValue_eq, toIo]
  cases W with
  | byte => exact congrArg (BitVec.setWidth 16) (BitVec.setWidth_setWidth_of_le v (show 8 ≤ 16 by decide))
  | word => rw [BitVec.setWidth_eq, BitVec.setWidth_eq, BitVec.setWidth_eq]
  | long => exact BitVec.setWidth_setWidth_of_le (v.setWidth 16) (show 16 ≤ 32 by decide)

/-- A read that the environment answers uses the answer up. -/
theorem State.ioReadDone_cons {v : Word} {rest : List Word} (h : s.ioIn = v :: rest) :
    s.ioAnswer = v ∧ s.ioReadDone space W port =
      { s with ioIn := rest, ioLog := s.ioLog ++ [⟨space, port, false, W, (v.setWidth W.bits).setWidth 16⟩] } := by
  have hanswer : s.ioAnswer = v := by rw [State.ioAnswer, h]
  refine ⟨hanswer, ?_⟩
  rw [State.ioReadDone, hanswer, h, ioValue_eq]
  rfl

/-- A read that the environment does not answer draws a free value. -/
theorem State.ioReadDone_nil (h : s.ioIn = []) :
    s.ioReadDone space W port =
      { s with free := s.free + 1
               ioLog := s.ioLog ++ [⟨space, port, false, W, (s.ioAnswer.setWidth W.bits).setWidth 16⟩] } := by
  have hempty : s.ioIn.tail = s.ioIn := by rw [h]; rfl
  rw [State.ioReadDone, hempty, ioValue_eq, if_pos (List.isEmpty_iff.2 h)]

theorem State.portOf_eq {port : Port} {a : Word} (hind : ∀ p, port = .ind p → a = s.reg p)
    (hdirect : ∀ w, port = .direct w → a = w) : s.portOf port = a := by
  cases port with
  | ind p => exact (hind p rfl).symm
  | direct w => exact (hdirect w rfl).symm

theorem inputs_of_input {i : Instr} {d : RegNo} (hi : exec i s = .next (input space W d port s)) :
    Inputs W space i d port s := by
  refine ⟨fun v rest h => ?_, fun h => ⟨s.ioAnswer.setWidth W.bits, ?_⟩⟩
  · obtain ⟨hanswer, hdone⟩ := State.ioReadDone_cons (space := space) (W := W) (port := port) h
    rw [hi, input, hanswer, hdone]
    refine congrArg _ ((s.setRegW_withIo _ _ s.free W d _).trans ?_)
    simp [fromIo]
  · rw [hi, input, State.ioReadDone_nil h]
    refine congrArg _ ((s.setRegW_withIo s.ioIn _ _ W d _).trans ?_)
    simp [fromIo]

theorem outputs_of_output {i : Instr} {r : RegNo} (hi : exec i s = .next (output space W port r s)) :
    Outputs W space i port r s := by
  rw [Outputs, hi, output, State.ioWriteDone, ioValue_toIo]

end Access

/-- Settles O54: in system mode each form is `input` or `output` at its width, space and port. -/
theorem singleTransfers : Obligations.SingleTransfers := by
  intro s k a hs
  refine ⟨fun port hind hdirect => ?_, inputs_of_input (if_pos hs), inputs_of_input (if_pos hs),
    outputs_of_output (if_pos hs), outputs_of_output (if_pos hs)⟩
  rw [← State.portOf_eq hind hdirect]
  exact ⟨inputs_of_input (if_pos hs), inputs_of_input (if_pos hs), outputs_of_output (if_pos hs),
    outputs_of_output (if_pos hs)⟩

/-! ## One iteration of a block transfer (R271) -/

section Elements

variable {s u : State} {f : Fcw} {space : IoSpace} {W : Width} {forward repeats : Bool} {d p r : RegNo}

/-- What an iteration ends in after an access is recorded. -/
theorem State.countAndRepeat_withIo (hr : r ≠ s.offsetReg p) (hsys : f.sys = s.fcw.sys) (hseg : f.seg = s.fcw.seg)
    (ioIn : List Word) (ioLog : List IoAccess) (n : Nat) (k : Word) (done : Bool) :
    State.countAndRepeat (State.stepPointer { s with fcw := f, ioIn := ioIn, ioLog := ioLog, free := n } p k) r done =
      { (s.setReg (s.offsetReg p) (s.reg (s.offsetReg p) + k)).setReg r (s.reg r - 1) with
          fcw := { f with pv := decide (s.reg r = 1) }
          pc := s.nextPc (done || decide (s.reg r = 1))
          ioIn := ioIn
          ioLog := ioLog
          free := n } := by
  refine (State.countAndRepeat_stepPointer (s := { s with ioIn := ioIn, ioLog := ioLog, free := n }) hr hsys hseg n k
    done).trans ?_
  rw [s.setReg_withIo, (s.setReg _ _).setReg_withIo]
  rfl

/-- A store after an access stores as before it, and leaves the access recorded. -/
theorem State.store_ioReadDone {a : Addr} (hcan : s.CanStore W a) (port : Word) (v : BitVec W.bits) :
    ∃ mem n, s.Stored W a v { s with mem := mem } ∧
      (s.ioReadDone space W port).store W a v = .next
        { s with mem := mem, ioIn := s.ioIn.tail, free := n
                 ioLog := s.ioLog ++ [⟨space, port, false, W, (fromIo W s.ioAnswer).setWidth 16⟩] } := by
  have hcan : (s.ioReadDone space W port).CanStore W a := ⟨hcan.aligned, hcan.admitted, hcan.apart⟩
  obtain ⟨u, hstored, hu⟩ := State.store_next v hcan
  obtain ⟨mem, rfl⟩ : ∃ mem, u = { s.ioReadDone space W port with mem := mem } := ⟨_, hstored.only⟩
  have hread : State.read { s with mem := mem } W a = .next v := by
    rw [← hstored.value]
    cases W <;> rfl
  exact ⟨mem, _, ⟨rfl, hread, hstored.rest⟩, by rw [hu, State.ioReadDone, ioValue_eq]; rfl⟩

theorem inputElement_next (hapart : (r :: p :: s.pointerRegs d).Nodup)
    (hu : (s.ioReadDone space W (s.reg p)).store W (s.pointer d) (fromIo W s.ioAnswer) = .next u) :
    inputElement space W forward repeats d p r s =
      .next ((u.freeZ.stepPointer d (blockStep W forward)).countAndRepeat r (!repeats)) := by
  rw [inputElement, ifOverlap_of_nodup hapart, hu]
  rfl

theorem outputElement_next {v : BitVec W.bits} (hapart : (r :: d :: s.pointerRegs p).Nodup)
    (hv : s.read W (s.pointer p) = .next v) :
    outputElement space W forward repeats d p r s = .next
      (((s.ioWriteDone space W (s.reg d) (toIo v)).freeZ.stepPointer p (blockStep W forward)).countAndRepeat r
        (!repeats)) := by
  rw [outputElement, ifOverlap_of_nodup hapart, hv]
  rfl

end Elements

/-! ## Shapes of block transfers -/

section Shapes

variable {W : Width} {space : IoSpace} {forward repeats : Bool} {step : Word} {i : RegNo → RegNo → RegNo → Instr}

theorem inputsElement_of_inputElement (hstep : blockStep W forward = step)
    (hi : ∀ d p r s, exec (i d p r) s = privileged (i d p r) (inputElement space W forward repeats d p r) s) :
    InputsElement W space step repeats i := by
  intro s d p r hs
  rw [hi, privileged_system hs]
  refine ⟨ifOverlap_of_not_nodup, fun hapart hcan => ?_⟩
  have hr : r ≠ s.offsetReg d := State.ne_offsetReg fun h => (List.nodup_cons.1 hapart).1 (.tail _ h)
  obtain ⟨mem, n, hstored, hu⟩ := State.store_ioReadDone (space := space) hcan (s.reg p) (fromIo W s.ioAnswer)
  refine ⟨fromIo W s.ioAnswer, _, Config.freeBit n, n + 1, fun v rest h => by rw [fromIo, State.ioAnswer, h], hstored, ?_⟩
  rw [inputElement_next hapart hu, hstep, State.freeZ,
    State.countAndRepeat_withIo (s := { s with mem := mem }) hr] <;> rfl

theorem outputsElement_of_outputElement (hstep : blockStep W forward = step)
    (hi : ∀ d p r s, exec (i d p r) s = privileged (i d p r) (outputElement space W forward repeats d p r) s) :
    OutputsElement W space step repeats i := by
  intro s d p r hs
  rw [hi, privileged_system hs]
  refine ⟨ifOverlap_of_not_nodup, fun hapart v hv => ⟨Config.freeBit s.free, s.free + 1, ?_⟩⟩
  have hr : r ≠ s.offsetReg p := State.ne_offsetReg fun h => (List.nodup_cons.1 hapart).1 (.tail _ h)
  have hend := State.countAndRepeat_withIo (f := { s.fcw with z := Config.freeBit s.free }) hr rfl rfl s.ioIn
    (s.ioLog ++ [⟨space, s.reg d, true, W, v.setWidth 16⟩]) (s.free + 1) step (!repeats)
  rw [outputElement_next hapart hv, hstep, State.ioWriteDone, ioValue_toIo, State.freeZ]
  exact congrArg Host.Outcome.next (hend.trans (by simp))

end Shapes

/-- Settles O55: each form is `inputElement` or `outputElement` at its space, width and direction. -/
theorem blockTransfers : Obligations.BlockTransfers := by
  refine ⟨?inputs, ?outputs⟩
  case inputs => and_intros <;> exact inputsElement_of_inputElement rfl fun _ _ _ _ => rfl
  case outputs => and_intros <;> exact outputsElement_of_outputElement rfl fun _ _ _ _ => rfl

end Sys2Proof.Machine
end

section
/-! SUPPORT. CPU control: the flag masks bit by bit, MI as it is sampled, and the statements of the family (49_cpu_control.md). -/

namespace Sys2Proof.Machine

/-! ## Flags by mask -/

/-- Bit `i` of the FCW, with C, Z, S and P/V changed where the mask has a 1. -/
theorem Fcw.bit_mapMasked (f : Fcw) (m : BitVec 4) (g : Bool → Bool) {i : Nat} (hi : i < 16) :
    (f.mapMasked m g).bit i = if (0#8 ++ m ++ 0#4).getLsbD i then g (f.bit i) else f.bit i := by
  simp only [BitVec.getLsbD_append]
  interval_cases i <;> simp [Fcw.bit, Fcw.mapMasked]

/-- A change by mask is an operation on words where it is that operation on each bit. -/
theorem Fcw.toWord_mapMasked {f : Fcw} {m : BitVec 4} {g : Bool → Bool} {w : Word}
    (hw : ∀ i < 16, w.getLsbD i =
      if (0#8 ++ m ++ 0#4).getLsbD i then g (f.toWord.getLsbD i) else f.toWord.getLsbD i) :
    (f.mapMasked m g).toWord = w := by
  refine BitVec.eq_of_getLsbD_eq fun i hi => ?_
  rw [Fcw.getLsbD_toWord _ hi, Fcw.bit_mapMasked f m g hi, hw i hi, Fcw.getLsbD_toWord _ hi]

/-- LDCTLB writes bits 7 to 2 and keeps the others (R305). -/
theorem Fcw.toWord_withFlags (f : Fcw) (b : Byte) :
    (f.withFlags b).toWord = f.control ++ b.extractLsb' 2 6 ++ f.rsvLo := by
  refine BitVec.eq_of_getLsbD_eq fun i hi => ?_
  rw [Fcw.getLsbD_toWord _ hi]
  simp only [Fcw.control, BitVec.getLsbD_append, BitVec.getLsbD_ofBool]
  interval_cases i <;> simp [Fcw.bit, Fcw.withFlags]

/-- LDCTLB reads bits 7 to 2, with 0 in the two others (R305). -/
theorem Fcw.flags_masked (f : Fcw) : f.flags &&& 0xFC = f.toWord.extractLsb' 2 6 ++ 0#2 := by
  refine BitVec.eq_of_getLsbD_eq fun i hi => ?_
  simp only [Fcw.toWord, BitVec.getLsbD_and, BitVec.getLsbD_append, BitVec.getLsbD_extractLsb']
  interval_cases i <;> simp

/-- Settles O56: the masks and LDCTLB bit by bit; the privileged instructions in system mode are their effects. -/
theorem flagsEnablesAndPins : Obligations.FlagsEnablesAndPins := by
  intro s m k
  refine ⟨⟨_, Fcw.toWord_mapMasked fun i hi => ?_, rfl⟩, ⟨_, Fcw.toWord_mapMasked fun i hi => ?_, rfl⟩,
    ⟨_, Fcw.toWord_mapMasked fun i hi => ?_, rfl⟩, ⟨_, s.fcw.toWord_withFlags _, rfl⟩,
    congrArg (fun b => Host.Outcome.next (s.setByteReg k b)) s.fcw.flags_masked, rfl, fun hs => ⟨fun v n => ?_,
    fun v n => ?_, if_pos hs, if_pos hs, if_pos hs⟩⟩
  · rw [BitVec.getLsbD_xor]
    cases (0#8 ++ m ++ 0#4).getLsbD i <;> simp
  · rw [BitVec.getLsbD_and, BitVec.getLsbD_not, decide_eq_true hi]
    cases (0#8 ++ m ++ 0#4).getLsbD i <;> simp
  · rw [BitVec.getLsbD_or]
    cases (0#8 ++ m ++ 0#4).getLsbD i <;> simp
  · refine (if_pos hs).trans ?_
    cases v <;> cases n <;> simp
  · refine (if_pos hs).trans ?_
    cases v <;> cases n <;> simp

/-! ## Sampling MI -/

/-- The samples of MI and free values go in either order with a register write. -/
theorem State.setReg_withMi (s : State) (miIn : List Pin) (n : Nat) (k : RegNo) (v : Word) :
    State.setReg { s with miIn := miIn, free := n } k v = { s.setReg k v with miIn := miIn, free := n } := by
  rw [State.setReg_of_mode (s := s) (t := { s with miIn := miIn, free := n }) rfl rfl, State.setReg]
  split
  · rfl
  · split <;> rfl

theorem State.resourceRequested_withMi (s : State) (miIn : List Pin) (n : Nat) (d : RegNo) (q : Pin) :
    State.resourceRequested { s with miIn := miIn, free := n } d q =
      { s.resourceRequested d q with miIn := miIn, free := n } := by
  rw [State.resourceRequested, State.setReg_withMi]
  rfl

/-- Settles O58: each sample is the head of the list or free; the first decides whether the request is made, the second how it
ends. -/
theorem multiMicro : Obligations.MultiMicro := by
  intro s d hs
  have hbit : exec .mbit s = .next (multiMicroBit s) := if_pos hs
  have hrequest : exec (.mreq d) s = .next (multiMicroRequest d s) := if_pos hs
  refine ⟨⟨_, hbit⟩, ⟨_, hrequest⟩, fun p rest h => ?_, fun h => ?_, fun rest h => ?_, fun q rest h => ?_, fun h => ?_,
    fun h => ?_⟩
  · obtain ⟨hp, hrest⟩ := miSampled_cons s p rest h
    refine ⟨Config.freeBit s.free, s.free + 1, ?_⟩
    rw [hbit, multiMicroBit, hp, hrest]
    rfl
  · refine ⟨Config.freeBit (s.free + 1), s.miLevel, s.free + 2, ?_⟩
    rw [hbit, multiMicroBit, miSampled_nil s h]
    rfl
  · obtain ⟨hp, hrest⟩ := miSampled_cons s _ rest h
    rw [hrequest, multiMicroRequest_low s d hp, hrest]
    rfl
  · obtain ⟨hp, hrest⟩ := miSampled_cons s _ _ h
    obtain ⟨hq, hrest'⟩ := miSampled_cons { s with miIn := q :: rest } q rest rfl
    rw [hrequest, multiMicroRequest_high s d hp, hrest, hq, hrest']
    exact congrArg _ ((s.resourceRequested_withMi rest s.free d q).trans (by simp [State.resourceRequested]))
  · obtain ⟨hp, hrest⟩ := miSampled_cons s _ _ h
    refine ⟨s.miSampled.miLevel, s.free + 1, ?_⟩
    rw [hrequest, multiMicroRequest_high s d hp, hrest, miSampled_nil { s with miIn := [] } rfl]
    exact congrArg _ (s.resourceRequested_withMi [] (s.free + 1) d _)
  · cases hp : s.miLevel with
    | low =>
      refine ⟨s.free + 1, .inl ?_⟩
      rw [hrequest, multiMicroRequest_low s d hp, miSampled_nil s h]
      rfl
    | high =>
      refine ⟨s.free + 2, .inr ⟨s.miSampled.miLevel, ?_⟩⟩
      rw [hrequest, multiMicroRequest_high s d hp, miSampled_nil s h, miSampled_nil { s with free := s.free + 1 } h]
      exact congrArg _ ((s.resourceRequested_withMi s.miIn (s.free + 2) d _).trans (by simp [State.resourceRequested]))

end Sys2Proof.Machine
end

section
/-! SUPPORT. The reset transition, what a boundary accepts, and what normal mode cannot do; the statements about them
(60_exceptions.md R332, R343, R352, 70_reset_and_hazards.md R380). -/

namespace Sys2Proof.Machine

/-! ## The reset transition -/

section Reset

variable {s : State} {f : Word}

theorem State.resetPc_z8002 (hz : s.isZ8001 = false) {p : Word} (hp : s.readWord ⟨0, 4⟩ = .next p) :
    s.resetPc = .next ⟨0, p⟩ := by
  rw [State.resetPc, hp, Res.andThen_next, hz]
  rfl

theorem State.resetPc_z8001 (hz : s.isZ8001 = true) {sg off : Word} (hsg : s.readWord ⟨0, 4⟩ = .next sg)
    (hoff : s.readWord ⟨0, 6⟩ = .next off) : s.resetPc = .next (Addr.ofWords sg off) := by
  rw [State.resetPc, hsg, Res.andThen_next, if_pos hz, hoff, Res.andThen_next]

theorem step_of_resetReq {pc : Addr} (hr : s.resetReq = true) (hf : s.readWord ⟨0, 2⟩ = .next f)
    (hpc : s.resetPc = .next pc) :
    step s = .next { s with halted := false, nmi := none, refresh := s.refresh &&& 0x7FFF, mo := .high
                            fcw := .ofWord s.par f, pc := pc, resetReq := false } := by
  rw [step, if_pos hr, resetSequence, hf, Res.andThen_next, hpc, Res.andThen_next]

end Reset

/-- Settles O8: the PC is read as the variant lays it out, and the step is the reset transition. -/
theorem resetTransition : Obligations.ResetTransition := fun _ _ hr hf =>
  ⟨fun hz _ hp => step_of_resetReq hr hf (State.resetPc_z8002 hz hp),
    fun hz _ _ hsg hoff => step_of_resetReq hr hf (State.resetPc_z8001 hz hsg hoff)⟩

/-! ## The boundary -/

section Boundary

variable {s t : State} {id : Word}

theorem boundary_of_reset (hr : s.request.reset = true) :
    boundary s t = .next { t with events := s.events.tail, nmi := s.nmiLatch, resetReq := true } := if_pos hr

/-- A segment trap of a Z8001 is accepted when no NMI comes before it. -/
theorem boundary_of_segt (hr : s.request.reset = false) (hl : s.nmiLatch = none) (hz : s.isZ8001 = true)
    (hid : s.request.segt = some id) :
    boundary s t = enter .segmentTrap id t.pc { t with events := s.events.tail, nmi := none } := by
  simp [boundary, accepted, hr, hl, hz, hid]

/-- An enabled NVI is accepted when nothing comes before it. -/
theorem boundary_of_nvi (hr : s.request.reset = false) (hl : s.nmiLatch = none)
    (hsegt : s.isZ8001 = true → s.request.segt = none)
    (hvi : s.request.vi ≠ none → enabled s.par s.fcw.vie t.fcw.vie = false) (hnvi : s.request.nvi = some id)
    (he : enabled s.par s.fcw.nvie t.fcw.nvie = true) :
    boundary s t = enter .nvi id t.pc { t with events := s.events.tail, nmi := none } := by
  have hacc : accepted s t = some (.nvi, id) := by
    unfold accepted
    rw [hl, segmentTrap_eq_none hsegt, hnvi]
    cases hv : s.request.vi with
    | none => simp [he]
    | some id' => simp [he, hvi (by simp [hv])]
  simp [boundary, hr, hacc, hl]

end Boundary

/-- Settles O11: by priority, each event under the condition that none before it is there. -/
theorem boundaryAcceptsByPriority : Obligations.BoundaryAcceptsByPriority := by
  refine ⟨fun par x y => ⟨fun h => by rw [enabled, h], fun h => by rw [enabled, h]⟩, ?_⟩
  rintro s t u vi nvi rfl rfl rfl
  refine ⟨boundary_of_reset, fun hr id hid => boundary_of_nmi hr hid, fun hr hl => ?_⟩
  rw [hl]
  refine ⟨fun hz id hid => boundary_of_segt hr hl hz hid, fun hsegt => ?_⟩
  have hsegt : s.isZ8001 = true → s.request.segt = none := by simpa [imp_iff_not_or] using hsegt
  refine ⟨fun id hid he => boundary_of_vi hr hl hsegt hid he, fun hvi => ?_⟩
  have hvi : s.request.vi ≠ none → enabled s.par s.fcw.vie t.fcw.vie = false := hvi.resolve_left
  exact ⟨fun id hid he => boundary_of_nvi hr hl hsegt hvi hid he,
    fun hnvi => boundary_of_none hr hl hsegt hvi hnvi.resolve_left⟩

/-! ## Normal mode -/

/-- Settles O12: a privileged instruction in normal mode is its trap, and a trap that can be made is made. -/
theorem privilegedInstructionsTrapInNormalMode : Obligations.PrivilegedInstructionsTrapInNormalMode := by
  intro s i first others saved hi hs he hfirst hnext
  have hsaved : s.trapPc i = saved := by
    cases hr : s.par.trapPcRule with
    | firstWordPlusTwo => rw [trapPc_firstWordPlusTwo s i first others hr he, hfirst hr]
    | nextInstruction => rw [trapPc_nextInstruction s i hr, hnext hr]
  have htrap : exec i s = enter .privileged first saved s := by
    rw [exec_privileged hi hs, instrWord_of_encode i first others he, hsaved]
  exact ⟨htrap, fun f p hcan => htrap ▸ hcan.entered saved⟩

section Unprivileged

variable {i : Instr} (hi : isPrivileged i = false)

/-- In normal mode an instruction that takes no trap is not privileged. -/
theorem isPrivileged_of_not_traps {s : State} (hs : s.fcw.sys = false) (h : s.traps i = false) : isPrivileged i = false := by
  unfold State.traps at h
  split at h
  · cases h
  · cases h
  · simpa [State.normal, hs] using h

include hi

/-- An instruction that is not privileged writes no control register and no enable, drives no pin and does not halt. -/
theorem footprint_of_not_isPrivileged :
    loadsFcw i = false ∧ setsEnables i = false ∧ ctlOf i = none ∧ drivesMo i = false ∧ halts i = false := by
  have hne (j : Instr) (hj : isPrivileged j = true) : i ≠ j := by
    rintro rfl
    exact absurd (hi.symm.trans hj) (by decide)
  refine ⟨?_, setsEnables_eq_false fun v n => ⟨hne _ rfl, hne _ rfl⟩, ctlOf_eq_none fun c r => hne _ rfl,
    drivesMo_eq_false (fun d => hne _ rfl) (hne _ rfl) (hne _ rfl), halts_eq_false (hne _ rfl)⟩
  refine Bool.eq_false_iff.2 fun hload => ?_
  obtain rfl | ⟨m, rfl⟩ | ⟨r, rfl⟩ := loadsFcw_cases hload <;> cases hi

end Unprivileged

theorem Fcw.control_congr {f g : Fcw} {v : FlagSet} (h : f.keeps g v) (hvie : g.vie = f.vie) (hnvie : g.nvie = f.nvie) :
    g.control = f.control := by
  obtain ⟨-, -, -, -, -, -, hseg, hsys, hepa, hhi, -⟩ := h
  simp only [Fcw.control, hseg, hsys, hepa, hvie, hnvie, hhi]

/-- Settles O13: what is left in normal mode is not privileged, and its footprint holds none of the control state. -/
theorem normalModeKeepsTheControlState : Obligations.NormalModeKeepsTheControlState := by
  intro s t i hs htrap h
  obtain ⟨hload, henables, hctl, hmo, hhalt⟩ := footprint_of_not_isPrivileged (isPrivileged_of_not_traps hs htrap)
  have hch := exec_changesOnly htrap hload h
  obtain ⟨hvie, hnvie⟩ := hch.enables henables
  have hother (c : CtlReg) : ctlOf i ≠ some c := hctl.trans_ne nofun
  exact ⟨Fcw.control_congr hch.flags hvie hnvie, hch.psapSeg (hother _), hch.psapOff (hother _), hch.refresh (hother _),
    hch.mo hmo, hch.otherStack hctl, hch.halted hhalt⟩

end Sys2Proof.Machine
end

section
/-! SUPPORT. What an entry that was made leaves, and IRET right after it (60_exceptions.md R345, R347, R349). -/

namespace Sys2Proof.Machine

/-! ## The program status area -/

theorem and_ff00 (w : Word) : w &&& 0xFF00 = w.extractLsb' 8 8 ++ 0#8 := by
  refine BitVec.eq_of_getLsbD_eq fun i hi => ?_
  rw [BitVec.getLsbD_and, BitVec.getLsbD_append, BitVec.getLsbD_extractLsb']
  interval_cases i <;> simp

theorem State.psaBase_eq (s : State) :
    s.psaBase = ⟨if s.isZ8001 then s.psapSeg.extractLsb' 8 7 else 0, s.psapOff.extractLsb' 8 8 ++ 0#8⟩ := by
  rw [State.psaBase, and_ff00]

/-- The PC of any other entry follows its FCW. -/
theorem Entry.pcOffset_of_ne_vi {k : Entry} (h : k ≠ .vi) (v : Variant) (id : Word) :
    k.pcOffset v id = k.fcwOffset v + 2 := by
  cases k with
  | vi => exact absurd rfl h
  | _ => rfl

/-- The PC of a VI is in the place of its vector, after the FCW. -/
theorem Entry.toNat_pcOffset_vi (v : Variant) (id : Word) :
    (Entry.pcOffset .vi v id).toNat = (Entry.fcwOffset .vi v).toNat + 2 + 2 * (id.extractLsb' 0 8).toNat := by
  have hlow : id.toNat &&& 255 = (id.extractLsb' 0 8).toNat := by
    rw [BitVec.extractLsb'_toNat]
    exact Nat.and_two_pow_sub_one_eq_mod id.toNat 8
  have hlt := (id.extractLsb' 0 8).isLt
  cases v <;> simp [Entry.pcOffset, Entry.fcwOffset, hlow] <;> omega

/-- Settles O25: an entry that can be made is made; the places of the program status area are read off their definitions. -/
theorem entrySequence : Obligations.EntrySequence := by
  refine ⟨fun s k id pc f p hcan => hcan.entered pc, fun s => ⟨fun hz => ?_, fun hz => ?_⟩, by decide,
    fun id => ⟨fun k v h => Entry.pcOffset_of_ne_vi h v id, Entry.toNat_pcOffset_vi .z8002 id,
      Entry.toNat_pcOffset_vi .z8001 id⟩⟩
  · rw [State.psaBase_eq, hz]
    rfl
  · rw [State.psaBase_eq, if_pos hz]

/-! ## An entry that was made -/

section Entered

variable {s t : State} {k : Entry} {id fcw f v : Word} {pc p : Addr}

/-- A push that went through pushed its word. -/
theorem State.EntryMode.pushed_of_entryPush (hm : s.EntryMode) (h : s.entryPush v = .next t) : s.Pushed [v] t := by
  obtain ⟨honly, hvalue, hrest⟩ := State.stored_of_write ((hm.entryPush v).symm.trans h)
  refine ⟨honly, fun i hi => ?_, fun b hb => hrest b fun i hi => ?_⟩
  · obtain rfl : i = 0 := by simpa using hi
    exact hvalue
  · have hi : i < 2 := hi
    rw [Addr.below_add _ (Nat.le_of_lt hi)]
    exact hb _ (Nat.sub_pos_of_lt hi) (Nat.sub_le 2 i)

/-- The pushes that went through pushed the frame. -/
theorem State.EntryMode.pushed_of_pushFrame (hm : s.EntryMode) (h : s.pushFrame pc fcw id = .next t) :
    s.Pushed (s.frameWords pc fcw id) t := by
  obtain ⟨u, hu, hrest⟩ := Res.andThen_eq_next.1 h
  obtain ⟨x, hx, hrest⟩ := Res.andThen_eq_next.1 hrest
  obtain ⟨y, hy, ht⟩ := Res.andThen_eq_next.1 hrest
  have hpu := hm.pushed_of_entryPush hu
  have hmu := hpu.entryMode hm
  rw [State.isZ8001_congr hpu.par] at hx
  unfold State.frameWords
  cases hz : s.isZ8001 with
  | true =>
    rw [hz] at hx
    have hpx := hmu.pushed_of_entryPush hx
    have hmx := hpx.entryMode hmu
    have hpy := hmx.pushed_of_entryPush hy
    have hpt := (hpy.entryMode hmx).pushed_of_entryPush ht
    exact ((hpu.trans hpx (by simp)).trans hpy (by simp)).trans hpt (by simp)
  | false =>
    rw [hz] at hx
    obtain rfl : u = x := Host.Outcome.next.inj hx
    have hpy := hmu.pushed_of_entryPush hy
    have hpt := (hpy.entryMode hmu).pushed_of_entryPush ht
    exact (hpu.trans hpy (by simp)).trans hpt (by simp)

/-- An entry that was made leaves the frame on the system stack, whatever it loaded. -/
theorem entered_of_enter (h : enter k id pc s = .next t) :
    ∃ f p, s.Entered id pc f p t ∧ (s.isZ8001 = false → p.seg = s.pc.seg) := by
  obtain ⟨u, hu, h⟩ := Res.andThen_eq_next.1 h
  obtain ⟨f, -, h⟩ := Res.andThen_eq_next.1 h
  obtain ⟨p, hp, h⟩ := Res.andThen_eq_next.1 h
  cases h
  have hpushed := s.systemMode_entryMode.pushed_of_pushFrame hu
  have hframe : s.systemMode.frameWords pc s.fcw.toWord id = s.frameWords pc s.fcw.toWord id := rfl
  rw [hframe] at hpushed
  obtain ⟨hid, hstatus, hpcSeg, hpcOff⟩ := hpushed.frame
  have hpar : u.par = s.par := hpushed.par
  refine ⟨f, p, ⟨?_, hid, hstatus, hpcSeg, hpcOff, fun b hb => hpushed.readByte_of_ne hb⟩, fun hz => ?_⟩
  · rw [hpar, hpushed.only, s.length_frameWords]
    rfl
  · rw [State.readPc_seg ((State.isZ8001_congr hpar).trans hz) hp, hpushed.only]
    rfl

theorem State.Entered.isZ8001 (h : s.Entered id pc f p t) : t.isZ8001 = s.isZ8001 := by
  rw [h.only]
  rfl

/-- After an entry the system stack pointer points to the frame. -/
theorem State.Entered.systemStack (h : s.Entered id pc f p t) (hp : s.isZ8001 = false → p.seg = s.pc.seg) :
    t.systemStack = s.frame := by
  have hregs : t.regs = s.regs.set 15 (s.regs[15] - BitVec.ofNat 16 s.frameSize) := by rw [h.only]
  have hpc : t.pc = p := by rw [h.only]
  unfold State.frame State.systemStack
  rw [h.isZ8001, hregs, hpc]
  cases hz : s.isZ8001 with
  | true => simp [Addr.ofWords, Addr.add, BitVec.sub_eq_add_neg]
  | false => simp [hp hz, Addr.add, BitVec.sub_eq_add_neg]

theorem Fcw.extract_rsvHi (f : Fcw) : f.toWord.extractLsb' 8 3 = f.rsvHi := by
  refine BitVec.eq_of_getLsbD_eq fun i hi => ?_
  rw [BitVec.getLsbD_extractLsb', Fcw.getLsbD_toWord _ (by omega), decide_eq_true hi]
  interval_cases i <;> rfl

theorem Fcw.extract_rsvLo (f : Fcw) : f.toWord.extractLsb' 0 2 = f.rsvLo := by
  refine BitVec.eq_of_getLsbD_eq fun i hi => ?_
  rw [BitVec.getLsbD_extractLsb', Fcw.getLsbD_toWord _ (by omega), decide_eq_true hi]
  interval_cases i <;> rfl

/-- The word of an FCW loads every bit but those that the parameter `FCW_RESERVED` clears (10_state.md R30, U3). -/
theorem Fcw.ofWord_toWord (par : Params) (f : Fcw) :
    Fcw.ofWord par f.toWord =
      { f with seg := f.seg && (par.variant == .z8001 || par.fcwReserved == .readsBackWritten)
               rsvHi := if par.fcwReserved = .readsBackWritten then f.rsvHi else 0
               rsvLo := if par.fcwReserved = .readsBackWritten then f.rsvLo else 0 } := by
  simp only [Fcw.ofWord, Fcw.getLsbD_toWord, Fcw.bit, Fcw.extract_rsvHi, Fcw.extract_rsvLo, Nat.reduceLT]

/-- A legal FCW is loaded back from its word. -/
theorem State.ofWord_toWord_fcw (h : s.fcwLegal) : Fcw.ofWord s.par s.fcw.toWord = s.fcw := by
  rw [Fcw.ofWord_toWord]
  cases hr : s.par.fcwReserved with
  | readsBackWritten => simp
  | readsBackZero =>
    obtain ⟨hhi, hlo, hseg⟩ := h hr
    have hkeep (x : Bool) : (s.fcw.seg && (s.par.variant == .z8001 || x)) = s.fcw.seg := by
      obtain hz | hseg := hseg
      · rw [show (s.par.variant == .z8001) = true from hz, Bool.true_or, Bool.and_true]
      · rw [hseg, Bool.false_and]
    simp [hkeep, ← hhi, ← hlo]

/-- A handler in system mode, and segmented on a Z8001, is in the mode of the entry. -/
theorem State.entryMode_of_handler (hsys : t.fcw.sys = true) (hseg : t.isZ8001 = true → t.fcw.seg = true) :
    t.EntryMode where
  sys := hsys
  segmented := by
    cases hz : t.isZ8001 with
    | true => simp [State.segmented, hz, hseg hz]
    | false => exact State.segmented_eq_false hz

/-- The stack pointer moved over the frame is where it was before the entry. -/
theorem State.Entered.stepPointer_frameSize (h : s.Entered id pc f p t) (hsys : t.fcw.sys = true) {n : Word}
    (hn : BitVec.ofNat 16 s.frameSize = n) : t.stepPointer t.stackReg n = { t with regs := s.regs } := by
  have hregs : t.regs = s.regs.set 15 (s.regs[15] - n) := by rw [h.only, hn]
  rw [State.stepPointer_stackReg_system hsys, hregs]
  simp

end Entered

/-- Settles O28: the frame lies where the handler's stack pointer points, and IRET pops it. -/
theorem interruptReturnUndoesTheEntry : Obligations.InterruptReturnUndoesTheEntry := by
  intro s t k id pc hlegal hpc h hsys hseg
  obtain ⟨f, p, hent, hp⟩ := entered_of_enter h
  have hz := hent.isZ8001
  have hmode : t.EntryMode := State.entryMode_of_handler hsys (hz ▸ hseg)
  have hstack : t.pointer t.stackReg = s.frame := hmode.pointer.trans (hent.systemStack hp)
  have hoff := hent.pcOff
  have hfcw : Fcw.ofWord t.par s.fcw.toWord = s.fcw := by
    rw [hent.only]
    exact State.ofWord_toWord_fcw hlegal
  have hiret : exec .iret t = returnFromException t := privileged_system hsys .iret returnFromException
  cases hv : s.isZ8001 with
  | true =>
    have hpopped := hent.stepPointer_frameSize hsys (n := 8) (by rw [State.frameSize, if_pos hv]; rfl)
    rw [if_pos hv] at hoff
    rw [hiret, returnFromException_segmented (hmode.segmented.trans (hz.trans hv)) (hstack ▸ hent.status)
      (hstack ▸ hent.pcSeg hv) (hstack ▸ hoff), hpopped, hfcw, Addr.ofWords_segWord]
  | false =>
    have hseg : t.pc.seg = pc.seg := by
      rw [hent.only]
      exact (hp hv).trans (hpc hv).symm
    have hpopped := hent.stepPointer_frameSize hsys (n := 6) (by rw [State.frameSize, hv]; rfl)
    rw [if_neg (Bool.eq_false_iff.1 hv)] at hoff
    rw [hiret, returnFromException_nonsegmented (hmode.segmented.trans (hz.trans hv)) (hstack ▸ hent.status)
      (hstack ▸ hoff), hpopped, hfcw, hseg]

end Sys2Proof.Machine
end
